-- ==== Sys2Proof/Word.lean ====
section
/-! DEFINITION. The word types of the block and their plainest arithmetic: a byte is 8 bits
(00_scope.md R6), a 16-bit value is the width of `id`, of the four counts and of the accumulator. -/

namespace Sys2Proof

/-- One byte of the input buffer (20_memory.md R50). -/
abbrev Byte := BitVec 8

/-- A 16-bit value: `id`, the counts, the flags word, the accumulator (00_scope.md R6). -/
abbrev Half := BitVec 16

end Sys2Proof
end

