-- ==== Sys2Proof/Config.lean ====
section
/-! DEFINITION. The constants the spec fixes (00_scope.md, table under R7) and the free values it
leaves open. `LEN_W` has no constant: R7 lets a model take `in_len` as an unbounded natural number
(log 5), so nothing here bounds a length. -/

namespace Sys2Proof

/-- `HDR_BITS`, the width of the header. -/
def Config.hdrBits : Nat := 96

/-- `HDR_BYTES`, the header in bytes. -/
def Config.hdrBytes : Nat := 12

/-- `Z_OFF`, the wire offset of the first bit of the reserved zone. -/
def Config.zOff : Nat := 25

/-- `LEN_W` is admissible when 12 is representable in it (00_scope.md R7). -/
abbrev Config.lenWOk (w : Nat) : Prop := 4 ≤ w

/-- FREE VALUE. What `buf_addr` shows between steps, when no `MemRead` is in progress
(10_state.md R40, 93_implementation_defined.md U14; log 13). The argument is `State.freeCount`. -/
opaque Config.bufAddrIdle : Nat → Nat

/-- FREE VALUE. The 7-bit cursor after wire bit 127, read by a primitive or step run alone:
10_state.md R29 says the cursor never wraps and gives no value here (log 11). The argument is `State.freeCount`. -/
opaque Config.curPast127 : Nat → BitVec 7

/-- FREE VALUE. `rem_len` written by an ASSEMBLE run alone with `in_len < 12`; 40_cursor_primitives.md
R104 (e) gives the difference only for `in_len >= 12` (log 12). The argument is `in_len`. -/
opaque Config.remLenShort : Nat → Nat

end Sys2Proof
end

