-- ==== Sys2Proof/Syntax.lean ====
section
/-! DEFINITION. The syntax: the header record with its two enumerations (00_scope.md R12), one
constructor of `Instr` for each of the 75 rows of spec/opcode_table.json, and the selector `Sel`
that says which recogniser reads the buffer (the table gives a row no bits for it: log 2). -/

namespace Sys2Proof

/-- The opcode enumeration; `reserved` carries the raw value (00_scope.md R12, 90_conflicts.md C4).
Values the decoder produces have `3 <= raw` (43_reference_encoder.md R163). -/
inductive Opcode where
  | query
  | inverseQuery
  | status
  | reserved (raw : BitVec 4)
  deriving DecidableEq, Repr

/-- The rcode enumeration; `reserved` carries the raw value (00_scope.md R12, 90_conflicts.md C4).
Values the decoder produces have `6 <= raw` (43_reference_encoder.md R163). -/
inductive Rcode where
  | noError
  | formatError
  | serverFailure
  | nameError
  | notImplemented
  | refused
  | reserved (raw : BitVec 4)
  deriving DecidableEq, Repr

/-- `opcode_tag`, 2 bits: the variant of the opcode without its raw value (10_state.md R25). -/
inductive OpcodeTag where
  | query
  | inverseQuery
  | status
  | reserved
  deriving DecidableEq, Repr

/-- `rcode_tag`, 3 bits: the variant of the rcode without its raw value; code 7 never occurs
(10_state.md R26, 93_implementation_defined.md U8). -/
inductive RcodeTag where
  | noError
  | formatError
  | serverFailure
  | nameError
  | notImplemented
  | refused
  | reserved
  deriving DecidableEq, Repr

/-- The `Header` record: the twelve retained fields (00_scope.md R12). Two headers are equal when all
twelve are, a `reserved` raw value included (R13). -/
structure Header where
  id : Half
  qr : Bool
  opcode : Opcode
  aa : Bool
  tc : Bool
  rd : Bool
  ra : Bool
  rcode : Rcode
  qdcount : Half
  ancount : Half
  nscount : Half
  arcount : Half
  deriving DecidableEq, Repr

/-- The instructions: one constructor per row of spec/opcode_table.json, in the table's order. -/
inductive Instr where
  /-- DECODE (42_decode_transaction.md R142): the whole transaction. -/
  | decode
  /-- DECODE.OK (42_decode_transaction.md R150): a header with `000` in the reserved zone; its twelve fields. -/
  | decodeOk (h : Header)
  /-- DECODE.MALFORMED.1 (60_exceptions.md R174): the reserved zone is 1. -/
  | decodeMalformed1
  /-- DECODE.MALFORMED.2 (60_exceptions.md R174): the reserved zone is 2. -/
  | decodeMalformed2
  /-- DECODE.MALFORMED.3 (60_exceptions.md R174): the reserved zone is 3. -/
  | decodeMalformed3
  /-- DECODE.MALFORMED.4 (60_exceptions.md R174): the reserved zone is 4. -/
  | decodeMalformed4
  /-- DECODE.MALFORMED.5 (60_exceptions.md R174): the reserved zone is 5. -/
  | decodeMalformed5
  /-- DECODE.MALFORMED.6 (60_exceptions.md R174): the reserved zone is 6. -/
  | decodeMalformed6
  /-- DECODE.MALFORMED.7 (60_exceptions.md R174): the reserved zone is 7. -/
  | decodeMalformed7
  /-- DECODE.TRUNCATED.L0 (42_decode_transaction.md R141): a buffer of exactly 0 bytes. -/
  | decodeTruncatedL0
  /-- DECODE.TRUNCATED.L1 (42_decode_transaction.md R141): a buffer of exactly 1 bytes. -/
  | decodeTruncatedL1
  /-- DECODE.TRUNCATED.L2 (42_decode_transaction.md R141): a buffer of exactly 2 bytes. -/
  | decodeTruncatedL2
  /-- DECODE.TRUNCATED.L3 (42_decode_transaction.md R141): a buffer of exactly 3 bytes. -/
  | decodeTruncatedL3
  /-- DECODE.TRUNCATED.L4 (42_decode_transaction.md R141): a buffer of exactly 4 bytes. -/
  | decodeTruncatedL4
  /-- DECODE.TRUNCATED.L5 (42_decode_transaction.md R141): a buffer of exactly 5 bytes. -/
  | decodeTruncatedL5
  /-- DECODE.TRUNCATED.L6 (42_decode_transaction.md R141): a buffer of exactly 6 bytes. -/
  | decodeTruncatedL6
  /-- DECODE.TRUNCATED.L7 (42_decode_transaction.md R141): a buffer of exactly 7 bytes. -/
  | decodeTruncatedL7
  /-- DECODE.TRUNCATED.L8 (42_decode_transaction.md R141): a buffer of exactly 8 bytes. -/
  | decodeTruncatedL8
  /-- DECODE.TRUNCATED.L9 (42_decode_transaction.md R141): a buffer of exactly 9 bytes. -/
  | decodeTruncatedL9
  /-- DECODE.TRUNCATED.L10 (42_decode_transaction.md R141): a buffer of exactly 10 bytes. -/
  | decodeTruncatedL10
  /-- DECODE.TRUNCATED.L11 (42_decode_transaction.md R141): a buffer of exactly 11 bytes. -/
  | decodeTruncatedL11
  /-- START (42_decode_transaction.md R140). -/
  | start
  /-- CHK.LEN (42_decode_transaction.md R141). -/
  | chkLen
  /-- RD.ID (41_field_extraction.md R110). -/
  | rdId
  /-- RD.QR (41_field_extraction.md R111). -/
  | rdQr
  /-- RD.OPCODE (41_field_extraction.md R112). -/
  | rdOpcode
  /-- RD.AA (41_field_extraction.md R113). -/
  | rdAa
  /-- RD.TC (41_field_extraction.md R114). -/
  | rdTc
  /-- RD.RD (41_field_extraction.md R115). -/
  | rdRd
  /-- RD.RA (41_field_extraction.md R116). -/
  | rdRa
  /-- RD.Z (41_field_extraction.md R117). -/
  | rdZ
  /-- RD.RCODE (41_field_extraction.md R118). -/
  | rdRcode
  /-- RD.QDCOUNT (41_field_extraction.md R119). -/
  | rdQdcount
  /-- RD.ANCOUNT (41_field_extraction.md R120). -/
  | rdAncount
  /-- RD.NSCOUNT (41_field_extraction.md R121). -/
  | rdNscount
  /-- RD.ARCOUNT (41_field_extraction.md R122). -/
  | rdArcount
  /-- MAP.OPCODE.0 (41_field_extraction.md R124). -/
  | mapOpcode0
  /-- MAP.OPCODE.1 (41_field_extraction.md R124). -/
  | mapOpcode1
  /-- MAP.OPCODE.2 (41_field_extraction.md R124). -/
  | mapOpcode2
  /-- MAP.OPCODE.3 (41_field_extraction.md R124). -/
  | mapOpcode3
  /-- MAP.OPCODE.4 (41_field_extraction.md R124). -/
  | mapOpcode4
  /-- MAP.OPCODE.5 (41_field_extraction.md R124). -/
  | mapOpcode5
  /-- MAP.OPCODE.6 (41_field_extraction.md R124). -/
  | mapOpcode6
  /-- MAP.OPCODE.7 (41_field_extraction.md R124). -/
  | mapOpcode7
  /-- MAP.OPCODE.8 (41_field_extraction.md R124). -/
  | mapOpcode8
  /-- MAP.OPCODE.9 (41_field_extraction.md R124). -/
  | mapOpcode9
  /-- MAP.OPCODE.10 (41_field_extraction.md R124). -/
  | mapOpcode10
  /-- MAP.OPCODE.11 (41_field_extraction.md R124). -/
  | mapOpcode11
  /-- MAP.OPCODE.12 (41_field_extraction.md R124). -/
  | mapOpcode12
  /-- MAP.OPCODE.13 (41_field_extraction.md R124). -/
  | mapOpcode13
  /-- MAP.OPCODE.14 (41_field_extraction.md R124). -/
  | mapOpcode14
  /-- MAP.OPCODE.15 (41_field_extraction.md R124). -/
  | mapOpcode15
  /-- MAP.RCODE.0 (41_field_extraction.md R125). -/
  | mapRcode0
  /-- MAP.RCODE.1 (41_field_extraction.md R125). -/
  | mapRcode1
  /-- MAP.RCODE.2 (41_field_extraction.md R125). -/
  | mapRcode2
  /-- MAP.RCODE.3 (41_field_extraction.md R125). -/
  | mapRcode3
  /-- MAP.RCODE.4 (41_field_extraction.md R125). -/
  | mapRcode4
  /-- MAP.RCODE.5 (41_field_extraction.md R125). -/
  | mapRcode5
  /-- MAP.RCODE.6 (41_field_extraction.md R125). -/
  | mapRcode6
  /-- MAP.RCODE.7 (41_field_extraction.md R125). -/
  | mapRcode7
  /-- MAP.RCODE.8 (41_field_extraction.md R125). -/
  | mapRcode8
  /-- MAP.RCODE.9 (41_field_extraction.md R125). -/
  | mapRcode9
  /-- MAP.RCODE.10 (41_field_extraction.md R125). -/
  | mapRcode10
  /-- MAP.RCODE.11 (41_field_extraction.md R125). -/
  | mapRcode11
  /-- MAP.RCODE.12 (41_field_extraction.md R125). -/
  | mapRcode12
  /-- MAP.RCODE.13 (41_field_extraction.md R125). -/
  | mapRcode13
  /-- MAP.RCODE.14 (41_field_extraction.md R125). -/
  | mapRcode14
  /-- MAP.RCODE.15 (41_field_extraction.md R125). -/
  | mapRcode15
  /-- ASSEMBLE (42_decode_transaction.md R145). -/
  | assemble
  /-- READ1 (40_cursor_primitives.md R100). -/
  | read1
  /-- READN.1 (40_cursor_primitives.md R102). -/
  | readn1
  /-- READN.3 (40_cursor_primitives.md R102). -/
  | readn3
  /-- READN.4 (40_cursor_primitives.md R102). -/
  | readn4
  /-- READN.16 (40_cursor_primitives.md R102). -/
  | readn16
  /-- ENCODE (43_reference_encoder.md R160): the specification function, on a header. -/
  | encode (h : Header)
  deriving DecidableEq, Repr

/-- The selector of a stand-alone row: which recogniser reads the buffer (log 2). `outcome` is the
classification of 30_encoding.md R81; it stands for the twenty rows DECODE.OK, DECODE.MALFORMED.* and
DECODE.TRUNCATED.*. -/
inductive Sel where
  | decode
  | outcome
  | start
  | chkLen
  | rdId
  | rdQr
  | rdOpcode
  | rdAa
  | rdTc
  | rdRd
  | rdRa
  | rdZ
  | rdRcode
  | rdQdcount
  | rdAncount
  | rdNscount
  | rdArcount
  | mapOpcode
  | mapRcode
  | assemble
  | read1
  | readn1
  | readn3
  | readn4
  | readn16
  | encode
  deriving DecidableEq, Repr

end Sys2Proof
end

