-- ==== Sys2Proof/WellFormed.lean ====
section
/-! DEFINITION. Well-formed instructions. The only operands are headers, and the only ill-formed
header is one that carries an assigned code in a `reserved` variant (43_reference_encoder.md R163). -/

namespace Sys2Proof

/-- `Reserved(raw)` implies `3 <= raw <= 15` (43_reference_encoder.md R163). -/
def Opcode.wf : Opcode → Bool
  | .query => true
  | .inverseQuery => true
  | .status => true
  | .reserved raw => decide (3 ≤ raw.toNat)

/-- `Reserved(raw)` implies `6 <= raw <= 15` (43_reference_encoder.md R163). -/
def Rcode.wf : Rcode → Bool
  | .noError => true
  | .formatError => true
  | .serverFailure => true
  | .nameError => true
  | .notImplemented => true
  | .refused => true
  | .reserved raw => decide (6 ≤ raw.toNat)

/-- A header is well-formed when both its enumerations are (43_reference_encoder.md R163). -/
def Header.wf (h : Header) : Bool := h.opcode.wf && h.rcode.wf

/-- An instruction is well-formed when the header it carries, if any, is. -/
def Instr.wf : Instr → Bool
  | .decodeOk h => h.wf
  | .encode h => h.wf
  | .decode | .decodeMalformed1 | .decodeMalformed2 | .decodeMalformed3 | .decodeMalformed4
  | .decodeMalformed5 | .decodeMalformed6 | .decodeMalformed7 | .decodeTruncatedL0 | .decodeTruncatedL1
  | .decodeTruncatedL2 | .decodeTruncatedL3 | .decodeTruncatedL4 | .decodeTruncatedL5 | .decodeTruncatedL6
  | .decodeTruncatedL7 | .decodeTruncatedL8 | .decodeTruncatedL9 | .decodeTruncatedL10 | .decodeTruncatedL11
  | .start | .chkLen | .rdId | .rdQr | .rdOpcode
  | .rdAa | .rdTc | .rdRd | .rdRa | .rdZ
  | .rdRcode | .rdQdcount | .rdAncount | .rdNscount | .rdArcount
  | .mapOpcode0 | .mapOpcode1 | .mapOpcode2 | .mapOpcode3 | .mapOpcode4
  | .mapOpcode5 | .mapOpcode6 | .mapOpcode7 | .mapOpcode8 | .mapOpcode9
  | .mapOpcode10 | .mapOpcode11 | .mapOpcode12 | .mapOpcode13 | .mapOpcode14
  | .mapOpcode15 | .mapRcode0 | .mapRcode1 | .mapRcode2 | .mapRcode3
  | .mapRcode4 | .mapRcode5 | .mapRcode6 | .mapRcode7 | .mapRcode8
  | .mapRcode9 | .mapRcode10 | .mapRcode11 | .mapRcode12 | .mapRcode13
  | .mapRcode14 | .mapRcode15 | .assemble | .read1 | .readn1
  | .readn3 | .readn4 | .readn16 => true

end Sys2Proof
end

