-- ==== Sys2Proof/Decode.lean ====
section
/-! DEFINITION. The decoder and the encoder of the wire format (30_encoding.md): the code mappings and
their inverses, the fields of a header read from its bytes, the recognisers of the table's rows,
`decodeTableWord`, and after them `encode`. -/

namespace Sys2Proof

/-! ## The code mappings -/

/-- `MAP.OPCODE`: total, never fails (41_field_extraction.md R124, 30_encoding.md R77). -/
def mapOpcode (raw : BitVec 4) : Opcode :=
  match raw.toNat with
  | 0 => .query
  | 1 => .inverseQuery
  | 2 => .status
  | _ => .reserved raw

/-- `MAP.RCODE`: total, never fails (41_field_extraction.md R125, 30_encoding.md R78). -/
def mapRcode (raw : BitVec 4) : Rcode :=
  match raw.toNat with
  | 0 => .noError
  | 1 => .formatError
  | 2 => .serverFailure
  | 3 => .nameError
  | 4 => .notImplemented
  | 5 => .refused
  | _ => .reserved raw

/-- `UNMAP.OPCODE` (43_reference_encoder.md R161). -/
def unmapOpcode : Opcode → BitVec 4
  | .query => 0
  | .inverseQuery => 1
  | .status => 2
  | .reserved raw => raw

/-- `UNMAP.RCODE` (43_reference_encoder.md R161). -/
def unmapRcode : Rcode → BitVec 4
  | .noError => 0
  | .formatError => 1
  | .serverFailure => 2
  | .nameError => 3
  | .notImplemented => 4
  | .refused => 5
  | .reserved raw => raw

/-- The variant without its raw value (10_state.md R25). -/
def Opcode.tag : Opcode → OpcodeTag
  | .query => .query
  | .inverseQuery => .inverseQuery
  | .status => .status
  | .reserved _ => .reserved

/-- The variant without its raw value (10_state.md R26). -/
def Rcode.tag : Rcode → RcodeTag
  | .noError => .noError
  | .formatError => .formatError
  | .serverFailure => .serverFailure
  | .nameError => .nameError
  | .notImplemented => .notImplemented
  | .refused => .refused
  | .reserved _ => .reserved

/-- The 2-bit code of a tag (10_state.md R25). -/
def OpcodeTag.code : OpcodeTag → BitVec 2
  | .query => 0
  | .inverseQuery => 1
  | .status => 2
  | .reserved => 3

/-- The 3-bit code of a tag (10_state.md R26). -/
def RcodeTag.code : RcodeTag → BitVec 3
  | .noError => 0
  | .formatError => 1
  | .serverFailure => 2
  | .nameError => 3
  | .notImplemented => 4
  | .refused => 5
  | .reserved => 6

/-! ## Fields of a header, from its bytes (30_encoding.md R73, R74) -/

/-- Two bytes as one 16-bit value, the first more significant (20_memory.md R52, R53). -/
def beHalf (hi lo : Byte) : Half := hi ++ lo

/-- The flags word `F = buf[2] ++ buf[3]` (30_encoding.md R73). -/
def flagsWord (b : Nat → Byte) : Half := beHalf (b 2) (b 3)

/-- The reserved zone, `b3[6:4]` (30_encoding.md R74). -/
def zoneOf (b : Nat → Byte) : BitVec 3 := (b 3).extractLsb' 4 3

/-- The raw opcode, `b2[6:3]` (30_encoding.md R74). -/
def opcodeRawOf (b : Nat → Byte) : BitVec 4 := (b 2).extractLsb' 3 4

/-- The raw rcode, `b3[3:0]` (30_encoding.md R74). -/
def rcodeRawOf (b : Nat → Byte) : BitVec 4 := (b 3).extractLsb' 0 4

/-- The header of the closed form (42_decode_transaction.md R150), from bytes 0 to 11. -/
def headerOf (b : Nat → Byte) : Header where
  id := beHalf (b 0) (b 1)
  qr := (b 2).getLsbD 7
  opcode := mapOpcode (opcodeRawOf b)
  aa := (b 2).getLsbD 2
  tc := (b 2).getLsbD 1
  rd := (b 2).getLsbD 0
  ra := (b 3).getLsbD 7
  rcode := mapRcode (rcodeRawOf b)
  qdcount := beHalf (b 4) (b 5)
  ancount := beHalf (b 6) (b 7)
  nscount := beHalf (b 8) (b 9)
  arcount := beHalf (b 10) (b 11)

/-- Byte `i` of a byte list; only used below the list's length. -/
def byteAt (l : List Byte) (i : Nat) : Byte := l.getD i 0

/-! ## The rows of each recogniser -/

/-- Row `MAP.OPCODE.<raw>` (30_encoding.md R77). -/
def mapOpcodeRow (raw : BitVec 4) : Instr :=
  match raw.toNat with
  | 0 => .mapOpcode0
  | 1 => .mapOpcode1
  | 2 => .mapOpcode2
  | 3 => .mapOpcode3
  | 4 => .mapOpcode4
  | 5 => .mapOpcode5
  | 6 => .mapOpcode6
  | 7 => .mapOpcode7
  | 8 => .mapOpcode8
  | 9 => .mapOpcode9
  | 10 => .mapOpcode10
  | 11 => .mapOpcode11
  | 12 => .mapOpcode12
  | 13 => .mapOpcode13
  | 14 => .mapOpcode14
  | _ => .mapOpcode15

/-- Row `MAP.RCODE.<raw>` (30_encoding.md R78). -/
def mapRcodeRow (raw : BitVec 4) : Instr :=
  match raw.toNat with
  | 0 => .mapRcode0
  | 1 => .mapRcode1
  | 2 => .mapRcode2
  | 3 => .mapRcode3
  | 4 => .mapRcode4
  | 5 => .mapRcode5
  | 6 => .mapRcode6
  | 7 => .mapRcode7
  | 8 => .mapRcode8
  | 9 => .mapRcode9
  | 10 => .mapRcode10
  | 11 => .mapRcode11
  | 12 => .mapRcode12
  | 13 => .mapRcode13
  | 14 => .mapRcode14
  | _ => .mapRcode15

/-- Row `DECODE.MALFORMED.<z>` for a non-zero zone, `DECODE.OK` for a zero one (30_encoding.md R81, classes 2
and 3). -/
def zoneRow (z : BitVec 3) (h : Header) : Instr :=
  match z.toNat with
  | 0 => .decodeOk h
  | 1 => .decodeMalformed1
  | 2 => .decodeMalformed2
  | 3 => .decodeMalformed3
  | 4 => .decodeMalformed4
  | 5 => .decodeMalformed5
  | 6 => .decodeMalformed6
  | _ => .decodeMalformed7

/-- Row `DECODE.TRUNCATED.L<n>` of a buffer of `n < 12` bytes (42_decode_transaction.md R141). -/
def truncatedRow (n : Nat) : Instr :=
  match n with
  | 0 => .decodeTruncatedL0
  | 1 => .decodeTruncatedL1
  | 2 => .decodeTruncatedL2
  | 3 => .decodeTruncatedL3
  | 4 => .decodeTruncatedL4
  | 5 => .decodeTruncatedL5
  | 6 => .decodeTruncatedL6
  | 7 => .decodeTruncatedL7
  | 8 => .decodeTruncatedL8
  | 9 => .decodeTruncatedL9
  | 10 => .decodeTruncatedL10
  | _ => .decodeTruncatedL11

/-- Why bytes are not a row of the selected recogniser. -/
inductive Reject where
  /-- A FLAGS16 recogniser needs bytes 2 and 3 (30_encoding.md R86). -/
  | noFlagsWord
  /-- The HDR96 row ENCODE needs 12 bytes (30_encoding.md R86). -/
  | noHeader
  /-- The row ENCODE fixes `000` in the reserved zone (43_reference_encoder.md R160). -/
  | reservedZone
  deriving DecidableEq, Repr

/-- The classification of 30_encoding.md R81, total on any bytes: by length first (R177), then by the
reserved zone. -/
def decodeOutcome (bytes : List Byte) : Instr :=
  if bytes.length < Config.hdrBytes then truncatedRow bytes.length
  else zoneRow (zoneOf (byteAt bytes)) (headerOf (byteAt bytes))

/-- THE DECODER: the row that the selected recogniser finds in the buffer `bytes`, or why there is
none. Rows whose `mask` is 0 are found whatever the bytes are (30_encoding.md R86). -/
def decode (sel : Sel) (bytes : List Byte) : Except Reject Instr :=
  match sel with
  | .decode => .ok .decode
  | .outcome => .ok (decodeOutcome bytes)
  | .start => .ok .start
  | .chkLen => .ok .chkLen
  | .rdId => .ok .rdId
  | .rdQr => .ok .rdQr
  | .rdOpcode => .ok .rdOpcode
  | .rdAa => .ok .rdAa
  | .rdTc => .ok .rdTc
  | .rdRd => .ok .rdRd
  | .rdRa => .ok .rdRa
  | .rdZ => .ok .rdZ
  | .rdRcode => .ok .rdRcode
  | .rdQdcount => .ok .rdQdcount
  | .rdAncount => .ok .rdAncount
  | .rdNscount => .ok .rdNscount
  | .rdArcount => .ok .rdArcount
  | .mapOpcode =>
    if bytes.length < 4 then .error .noFlagsWord else .ok (mapOpcodeRow (opcodeRawOf (byteAt bytes)))
  | .mapRcode =>
    if bytes.length < 4 then .error .noFlagsWord else .ok (mapRcodeRow (rcodeRawOf (byteAt bytes)))
  | .assemble => .ok .assemble
  | .read1 => .ok .read1
  | .readn1 => .ok .readn1
  | .readn3 => .ok .readn3
  | .readn4 => .ok .readn4
  | .readn16 => .ok .readn16
  | .encode =>
    if bytes.length < Config.hdrBytes then .error .noHeader
    else if zoneOf (byteAt bytes) = 0 then .ok (.encode (headerOf (byteAt bytes)))
    else .error .reservedZone

/-! ## Words as spec/opcode_table.json numbers them -/

/-- The low `n` bytes of `w`, most significant first: the first byte holds wire bits 0 to 7
(30_encoding.md R86, HDR96). -/
def beBytes (n w : Nat) : List Byte :=
  (List.range n).map fun i => BitVec.ofNat 8 (w / 2 ^ (8 * (n - 1 - i)))

/-- A 12-byte buffer with the flags word in bytes 2 and 3 and zero elsewhere (30_encoding.md R73). -/
def flagsBuf (f : Half) : List Byte :=
  [0, 0, f.extractLsb' 8 8, f.extractLsb' 0 8, 0, 0, 0, 0, 0, 0, 0, 0]

/-- The recogniser a bare FLAGS16 word is given to (log 3): a non-zero zone is an outcome row, a
non-zero rcode or a word whose table bits stop in byte 3 is an rcode row, else an opcode row. -/
def flagsSel (nbits : Nat) (f : Half) : Sel :=
  if f.extractLsb' 4 3 ≠ 0 then .outcome
  else if f.extractLsb' 0 4 ≠ 0 ∨ nbits ≤ 8 then .mapRcode
  else .mapOpcode

/-- The selector and the buffer of a word with `nbits` table bits (log 3). No bits: the row DECODE, and
no buffer of its own. Up to 16 bits: FLAGS16. 24 to 88 bits in whole bytes: LEN. 96 bits: HDR96. -/
def tableWord (nbits w : Nat) : Option (Sel × Option (List Byte)) :=
  if nbits = 0 then some (.decode, none)
  else if nbits ≤ 16 then
    some (flagsSel nbits (BitVec.ofNat 16 w), some (flagsBuf (BitVec.ofNat 16 w)))
  else if nbits ≤ 96 ∧ nbits % 8 = 0 then some (.outcome, some (beBytes (nbits / 8) w))
  else none

/-- The instruction the decoder reads from a word numbered as spec/opcode_table.json numbers it. -/
def decodeTableWord (nbits w : Nat) : Option Instr :=
  match tableWord nbits w with
  | none => none
  | some (sel, bytes) =>
    match decode sel (bytes.getD []) with
    | .ok i => some i
    | .error _ => none

/-! ## The encoder -/

/-- `ENCODE(h)`: bytes `e0 .. e11` (43_reference_encoder.md R160). -/
def encodeHeader (h : Header) : List Byte :=
  [h.id.extractLsb' 8 8, h.id.extractLsb' 0 8,
   ((BitVec.ofBool h.qr).setWidth 8 <<< 7) ||| ((unmapOpcode h.opcode).setWidth 8 <<< 3) |||
     ((BitVec.ofBool h.aa).setWidth 8 <<< 2) ||| ((BitVec.ofBool h.tc).setWidth 8 <<< 1) |||
     (BitVec.ofBool h.rd).setWidth 8,
   ((BitVec.ofBool h.ra).setWidth 8 <<< 7) ||| ((0 : Byte) <<< 4) ||| (unmapRcode h.rcode).setWidth 8,
   h.qdcount.extractLsb' 8 8, h.qdcount.extractLsb' 0 8,
   h.ancount.extractLsb' 8 8, h.ancount.extractLsb' 0 8,
   h.nscount.extractLsb' 8 8, h.nscount.extractLsb' 0 8,
   h.arcount.extractLsb' 8 8, h.arcount.extractLsb' 0 8]

/-- A FLAGS16 row's buffer with the row's `match` and zero in every bit outside its `mask`. -/
def rowBuf (pattern : Nat) : List Byte := flagsBuf (BitVec.ofNat 16 pattern)

/-- A buffer for a row that fixes no bit: zeros where the row has `x` or `b`. -/
def zeroBuf (n : Nat) : List Byte := List.replicate n 0

/-- The selector and the buffer of an instruction, from the table's `encoding`, `match` and `mask`
(30_encoding.md R86); a bit the row does not fix is zero. -/
def encode : Instr → Sel × List Byte
  | .decode => (.decode, [])
  | .decodeOk h => (.outcome, encodeHeader h)
  | .decodeMalformed1 => (.outcome, rowBuf 0x0010)
  | .decodeMalformed2 => (.outcome, rowBuf 0x0020)
  | .decodeMalformed3 => (.outcome, rowBuf 0x0030)
  | .decodeMalformed4 => (.outcome, rowBuf 0x0040)
  | .decodeMalformed5 => (.outcome, rowBuf 0x0050)
  | .decodeMalformed6 => (.outcome, rowBuf 0x0060)
  | .decodeMalformed7 => (.outcome, rowBuf 0x0070)
  | .decodeTruncatedL0 => (.outcome, zeroBuf 0)
  | .decodeTruncatedL1 => (.outcome, zeroBuf 1)
  | .decodeTruncatedL2 => (.outcome, zeroBuf 2)
  | .decodeTruncatedL3 => (.outcome, zeroBuf 3)
  | .decodeTruncatedL4 => (.outcome, zeroBuf 4)
  | .decodeTruncatedL5 => (.outcome, zeroBuf 5)
  | .decodeTruncatedL6 => (.outcome, zeroBuf 6)
  | .decodeTruncatedL7 => (.outcome, zeroBuf 7)
  | .decodeTruncatedL8 => (.outcome, zeroBuf 8)
  | .decodeTruncatedL9 => (.outcome, zeroBuf 9)
  | .decodeTruncatedL10 => (.outcome, zeroBuf 10)
  | .decodeTruncatedL11 => (.outcome, zeroBuf 11)
  | .start => (.start, [])
  | .chkLen => (.chkLen, [])
  | .rdId => (.rdId, zeroBuf 12)
  | .rdQr => (.rdQr, zeroBuf 12)
  | .rdOpcode => (.rdOpcode, zeroBuf 12)
  | .rdAa => (.rdAa, zeroBuf 12)
  | .rdTc => (.rdTc, zeroBuf 12)
  | .rdRd => (.rdRd, zeroBuf 12)
  | .rdRa => (.rdRa, zeroBuf 12)
  | .rdZ => (.rdZ, zeroBuf 12)
  | .rdRcode => (.rdRcode, zeroBuf 12)
  | .rdQdcount => (.rdQdcount, zeroBuf 12)
  | .rdAncount => (.rdAncount, zeroBuf 12)
  | .rdNscount => (.rdNscount, zeroBuf 12)
  | .rdArcount => (.rdArcount, zeroBuf 12)
  | .mapOpcode0 => (.mapOpcode, rowBuf 0x0000)
  | .mapOpcode1 => (.mapOpcode, rowBuf 0x0800)
  | .mapOpcode2 => (.mapOpcode, rowBuf 0x1000)
  | .mapOpcode3 => (.mapOpcode, rowBuf 0x1800)
  | .mapOpcode4 => (.mapOpcode, rowBuf 0x2000)
  | .mapOpcode5 => (.mapOpcode, rowBuf 0x2800)
  | .mapOpcode6 => (.mapOpcode, rowBuf 0x3000)
  | .mapOpcode7 => (.mapOpcode, rowBuf 0x3800)
  | .mapOpcode8 => (.mapOpcode, rowBuf 0x4000)
  | .mapOpcode9 => (.mapOpcode, rowBuf 0x4800)
  | .mapOpcode10 => (.mapOpcode, rowBuf 0x5000)
  | .mapOpcode11 => (.mapOpcode, rowBuf 0x5800)
  | .mapOpcode12 => (.mapOpcode, rowBuf 0x6000)
  | .mapOpcode13 => (.mapOpcode, rowBuf 0x6800)
  | .mapOpcode14 => (.mapOpcode, rowBuf 0x7000)
  | .mapOpcode15 => (.mapOpcode, rowBuf 0x7800)
  | .mapRcode0 => (.mapRcode, rowBuf 0x0000)
  | .mapRcode1 => (.mapRcode, rowBuf 0x0001)
  | .mapRcode2 => (.mapRcode, rowBuf 0x0002)
  | .mapRcode3 => (.mapRcode, rowBuf 0x0003)
  | .mapRcode4 => (.mapRcode, rowBuf 0x0004)
  | .mapRcode5 => (.mapRcode, rowBuf 0x0005)
  | .mapRcode6 => (.mapRcode, rowBuf 0x0006)
  | .mapRcode7 => (.mapRcode, rowBuf 0x0007)
  | .mapRcode8 => (.mapRcode, rowBuf 0x0008)
  | .mapRcode9 => (.mapRcode, rowBuf 0x0009)
  | .mapRcode10 => (.mapRcode, rowBuf 0x000a)
  | .mapRcode11 => (.mapRcode, rowBuf 0x000b)
  | .mapRcode12 => (.mapRcode, rowBuf 0x000c)
  | .mapRcode13 => (.mapRcode, rowBuf 0x000d)
  | .mapRcode14 => (.mapRcode, rowBuf 0x000e)
  | .mapRcode15 => (.mapRcode, rowBuf 0x000f)
  | .assemble => (.assemble, [])
  | .read1 => (.read1, zeroBuf 1)
  | .readn1 => (.readn1, zeroBuf 1)
  | .readn3 => (.readn3, zeroBuf 1)
  | .readn4 => (.readn4, zeroBuf 1)
  | .readn16 => (.readn16, zeroBuf 2)
  | .encode h => (.encode, encodeHeader h)

end Sys2Proof
end

