-- ==== Sys2Proof/Machine/State.lean ====
section
/-! DEFINITION. The machine's state as plain data: every register of 10_state.md, the host's inputs,
and the model's own fields, each marked; the reasons a step can stop; the state after reset. -/

namespace Sys2Proof.Machine

/-- `phase` (10_state.md R32). Value 3 never occurs, so it has no constructor (U8). -/
inductive Phase where
  | idle
  | busy
  | done
  deriving DecidableEq, Repr

/-- `status`, the kind of the result (10_state.md R33). -/
inductive Status where
  | none
  | ok
  | truncated
  | malformed
  deriving DecidableEq, Repr

/-- The ports the host can read (10_state.md R38, port list). -/
inductive Port where
  | busy
  | done
  | status
  | id
  | qr
  | opcodeRaw
  | opcodeTag
  | aa
  | tc
  | rd
  | ra
  | rcodeRaw
  | rcodeTag
  | qdcount
  | ancount
  | nscount
  | arcount
  | remOff
  | remLen
  | errBitsRequired
  | errBitsAvailable
  | errPattern
  | errBitOffset
  deriving DecidableEq, Repr

/-- What a port read gives: a one-bit value, an unsigned number, or an enumeration's variant. -/
inductive PortVal where
  | flag (b : Bool)
  | num (n : Nat)
  | status (s : Status)
  | opcodeTag (t : OpcodeTag)
  | rcodeTag (t : RcodeTag)
  deriving DecidableEq, Repr

/-- What a stand-alone primitive or function returns (40_cursor_primitives.md R100, R102,
41_field_extraction.md R124, R125, 43_reference_encoder.md R160). -/
inductive Ret where
  | bit (b : Bool)
  | value (width : Nat) (v : Nat)
  | opcode (v : Opcode)
  | rcode (v : Rcode)
  | bytes (l : List Byte)
  deriving DecidableEq, Repr

/-- The moves of the host (60_exceptions.md R188). -/
inductive HostMove where
  /-- Assert `start` (42_decode_transaction.md R140). -/
  | start
  /-- Assert `rst` (70_reset_and_hazards.md R200). -/
  | rst
  /-- Read a port (10_state.md R38). -/
  | read (p : Port)
  /-- Present a buffer, with its true length on `in_len` (70_reset_and_hazards.md R202). -/
  | load (bytes : List Byte)
  /-- Write one byte of its own buffer (60_exceptions.md R188, liberties). -/
  | poke (addr : Nat) (b : Byte)
  /-- Drive `in_len`, truthfully or not (70_reset_and_hazards.md R208). -/
  | setLen (n : Nat)
  deriving DecidableEq, Repr

/-- Who acts in a step: the decoder, the host, or a table row run by itself (log 1, log 2). -/
inductive Turn where
  | decoder
  | host (m : HostMove)
  | run (sel : Sel)
  deriving DecidableEq, Repr

/-- The two failures with their payloads (60_exceptions.md R170, R173, R175). -/
inductive Failure where
  | truncated (required : BitVec 7) (available : Nat)
  | malformed (pattern : BitVec 3) (bitOffset : BitVec 7)
  deriving DecidableEq, Repr

/-- What the decoder does in its own turn: nothing, one instruction of the hard-wired sequence, or, at
a cursor value that is no step's, no step at all (42_decode_transaction.md R142, R148). -/
inductive NextOp where
  | idle
  | instr (i : Instr)
  | offSequence
  deriving DecidableEq, Repr

/-- The buffer space BUF: bytes by offset (20_memory.md R50). -/
abbrev Memory := List Host.Cell

/-- The state. `none` in a register is the spec's own "no value" (10_state.md R36, R40; log 6). -/
structure State where
  -- header field registers (10_state.md R22 to R28)
  id : Option Half
  qr : Option Bool
  opcodeRaw : Option (BitVec 4)
  opcodeTag : Option OpcodeTag
  aa : Option Bool
  tc : Option Bool
  rd : Option Bool
  ra : Option Bool
  rcodeRaw : Option (BitVec 4)
  rcodeTag : Option RcodeTag
  qdcount : Option Half
  ancount : Option Half
  nscount : Option Half
  arcount : Option Half
  -- remainder descriptor (R35) and failure payloads (R34)
  remOff : Option (BitVec 4)
  remLen : Option Nat
  errBitsRequired : Option (BitVec 7)
  errBitsAvailable : Option Nat
  errPattern : Option (BitVec 3)
  errBitOffset : Option (BitVec 7)
  -- control and status (R32, R33), cursor (R29), internal registers (R31)
  phase : Phase
  status : Status
  cur : BitVec 7
  acc : Option Half
  z : Option (BitVec 3)
  -- inputs owned by the host (R21, R38; 20_memory.md R50)
  buf : Memory
  inLen : Nat
  -- MODEL'S OWN: CHK.LEN has passed in this transaction (log 8)
  lenOk : Bool
  -- MODEL'S OWN: byte offsets read since START, newest first, no immediate repeat (log 10)
  readTrace : List Nat
  -- MODEL'S OWN: what the last stand-alone primitive or function returned (log 9)
  ret : Option Ret
  -- MODEL'S OWN: the turns to come; empty means the decoder steps (log 1)
  agenda : List Turn
  -- MODEL'S OWN: what the host's last port read gave it (log 1)
  hostData : Option PortVal
  -- MODEL'S OWN: advanced at every step, the argument of free values (log 13)
  freeCount : Nat
  deriving DecidableEq, Repr

/-- Why a step stops with a fault. All three are devices of the model; none is a behaviour of the
hardware (60_exceptions.md R181). -/
inductive Fault where
  /-- READ1 with `cur >= 8 * in_len` (40_cursor_primitives.md R101, U5), raised by `memRead` under
  READ1, READN and the RD steps. Safe: the machine stops where the spec gives no value. -/
  | readPastEnd
  /-- A host read of a port that shows no value (10_state.md R36, R37, U2), raised by `hostRead`.
  Safe: no number is returned. -/
  | readOfNone (p : Port)
  /-- A decoder turn in BUSY at a cursor value that is no step's "cursor in"
  (41_field_extraction.md R127), raised by `step`. Safe: no transaction reaches it; only a
  primitive run alone inside a transaction can (log 21). -/
  | cursorOffSequence
  deriving DecidableEq, Repr

/-- Why a step is refused. -/
inductive Refusal where
  /-- The instruction has no meaning yet. Safe. -/
  | notModelled (mnemonic : String)
  /-- START while BUSY, which the host must not do (42_decode_transaction.md R147, U3), raised by
  START, DECODE and the outcome rows. Safe: the run stops (log 16). -/
  | startWhileBusy
  /-- The host changes `in_len` or bytes 0 to 11 while BUSY (70_reset_and_hazards.md R207, U4), raised
  by the host's moves. Safe: the run stops (log 17). -/
  | bufferChanged
  /-- Bytes below `in_len` that the host has not supplied (70_reset_and_hazards.md R208, U7): raised by
  `whenReadable` where a transaction starts with `in_len >= 12` and a byte of 0 to 11 is missing, and by
  `memRead` where a row run alone or its recogniser reads a missing byte. Safe: the run stops (logs 7,
  29, 31). -/
  | bufferUnreadable
  /-- A row run alone whose bits in the buffer are not that row's (30_encoding.md R86), raised by
  `step`. Safe: nothing runs (log 2). -/
  | undecodable (r : Reject)
  deriving DecidableEq, Repr

/-- The state after reset (10_state.md R40), with the inputs and the model's own fields at the values
the log names (log 22). -/
def State.reset : State where
  id := none
  qr := none
  opcodeRaw := none
  opcodeTag := none
  aa := none
  tc := none
  rd := none
  ra := none
  rcodeRaw := none
  rcodeTag := none
  qdcount := none
  ancount := none
  nscount := none
  arcount := none
  remOff := none
  remLen := none
  errBitsRequired := none
  errBitsAvailable := none
  errPattern := none
  errBitOffset := none
  phase := .idle
  status := .none
  cur := 0
  acc := none
  z := none
  buf := []
  inLen := 0
  lenOk := false
  readTrace := []
  ret := none
  agenda := []
  hostData := none
  freeCount := 0

end Sys2Proof.Machine
end

