-- ==== Sys2Proof/Machine/Operands.lean ====
section
/-! DEFINITION. The operand forms of the block: the wire bit under the cursor, the accumulate step of
READN, the closed form of a field, the two forms of the cursor, the place of a step in the sequence,
and what the host computes from a failure payload or a remainder descriptor. -/

namespace Sys2Proof.Machine

/-- The wire bit at offset `k`, given the byte it lies in: value bit `7 - (k mod 8)` (00_scope.md R9,
R10; 40_cursor_primitives.md R100). -/
def wbit (byte : Byte) (k : Nat) : Bool := byte.getLsbD (7 - k % 8)

/-- `acc <- ((acc << 1) | b)[15:0]` (40_cursor_primitives.md R102). -/
def accStep (acc : Half) (b : Bool) : Half := (acc <<< 1) ||| (BitVec.ofBool b).setWidth 16

/-- `wbits(buf, off, n)`: wire bits `off` to `off + n - 1`, the first one most significant (00_scope.md
R10), computed by taking in one bit after another. -/
def wbits (buf : Nat → Byte) (off : Nat) : Nat → Nat
  | 0 => 0
  | n + 1 => 2 * wbits buf off n + (wbit (buf ((off + n) / 8)) (off + n)).toNat

/-- `byte_idx` of the pair form of the cursor (10_state.md R30). -/
def byteIdx (cur : BitVec 7) : Nat := cur.toNat / 8

/-- `bit_off` of the pair form of the cursor (10_state.md R30). -/
def bitOff (cur : BitVec 7) : Nat := cur.toNat % 8

/-- Advancing the pair form: roll over to the next byte after bit 7 (10_state.md R30). -/
def pairAdvance (p : Nat × Nat) : Nat × Nat := if p.2 = 7 then (p.1 + 1, 0) else (p.1, p.2 + 1)

/-- `cur + 1`; past 127, where 7 bits end and the spec gives no value, a free value (10_state.md R29;
DESIGN CHOICE, log 11). A READN or RD step that crosses 127 reads on from there. -/
def advance (s : State) : BitVec 7 :=
  if s.cur = 127 then Config.curPast127 s.freeCount else s.cur + 1

/-- One read event in the trace: a byte read again at once is not recorded again, so that no claim can
count reads (20_memory.md R56; log 10). -/
def noteRead (a : Nat) (trace : List Nat) : List Nat :=
  if trace.head? = some a then trace else a :: trace

/-- The trace after `n` bits read from wire offset `c` on, one READ1 after another. -/
def noteReads (c : Nat) : Nat → List Nat → List Nat
  | 0, trace => trace
  | n + 1, trace => noteReads (c + 1) n (noteRead (c / 8) trace)

/-- The step whose "cursor in" is `cur` once CHK.LEN has passed (41_field_extraction.md R127,
42_decode_transaction.md R142). -/
def stepAt (cur : BitVec 7) : Option Instr :=
  match cur.toNat with
  | 0 => some .rdId
  | 16 => some .rdQr
  | 17 => some .rdOpcode
  | 21 => some .rdAa
  | 22 => some .rdTc
  | 23 => some .rdRd
  | 24 => some .rdRa
  | 25 => some .rdZ
  | 28 => some .rdRcode
  | 32 => some .rdQdcount
  | 48 => some .rdAncount
  | 64 => some .rdNscount
  | 80 => some .rdArcount
  | 96 => some .assemble
  | _ => none

/-- What the decoder does in its own turn: nothing in IDLE and DONE (42_decode_transaction.md R148), in
BUSY the step that `lenOk` and `cur` name (R142; log 8). -/
def sequencer (s : State) : NextOp :=
  match s.phase with
  | .idle => .idle
  | .done => .idle
  | .busy =>
    if s.lenOk then
      match stepAt s.cur with
      | some i => .instr i
      | none => .offSequence
    else .instr .chkLen

/-- The violating wire bits of a zone pattern, in wire order (60_exceptions.md R183). -/
def violatingBits (pattern : BitVec 3) : List Nat :=
  (List.range 3).filterMap fun i =>
    if pattern.getLsbD (2 - i) then some (Config.zOff + i) else none

/-- The first violating bit of a non-zero zone pattern (60_exceptions.md R183). -/
def firstViolating (pattern : BitVec 3) : Nat :=
  if 4 ≤ pattern.toNat then 25 else if 2 ≤ pattern.toNat then 26 else 27

end Sys2Proof.Machine
end

