-- ==== Sys2Proof/Machine/Flags.lean ====
section
/-! DEFINITION. The flags of 10_state.md R39: the header flags, each equal to its wire bit, and the
result kind `status` with the outputs `busy` and `done`. There are no condition codes and no step
writes a flag as a side effect. -/

namespace Sys2Proof.Machine

/-- A 1-bit field as a boolean: `1` is true (00_scope.md R11, 30_encoding.md R76). -/
def flagOf (v : BitVec 1) : Bool := v.getLsbD 0

/-- The 2-bit code of `phase` (10_state.md R32). -/
def Phase.code : Phase → BitVec 2
  | .idle => 0
  | .busy => 1
  | .done => 2

/-- The 2-bit code of `status` (10_state.md R33, 60_exceptions.md R170). -/
def Status.code : Status → BitVec 2
  | .none => 0
  | .ok => 1
  | .truncated => 2
  | .malformed => 3

/-- Output `busy` (10_state.md R32). -/
def State.busy (s : State) : Bool := decide (s.phase = .busy)

/-- Output `done` (10_state.md R32). -/
def State.done (s : State) : Bool := decide (s.phase = .done)

/-- Output `buf_addr` between steps, when no `MemRead` is in progress: any value (10_state.md R40,
U14; log 13). -/
def State.bufAddrPin (s : State) : Nat := Config.bufAddrIdle s.freeCount

/-- The value of `status` a failure leaves (10_state.md R33). -/
def Failure.status : Failure → Status
  | .truncated _ _ => .truncated
  | .malformed _ _ => .malformed

end Sys2Proof.Machine
end

