-- ==== Sys2Proof/Machine/Ops.lean ====
section
/-! DEFINITION. The shared operations: the buffer space, `MemRead`, READ1 and READN, beginning a
transaction, RAISING A FAILURE (this hardware's only exception entry; R179 gives it no return), the
length check, the thirteen extractions, ASSEMBLE, the sequence, the closed forms, and reset. -/

namespace Sys2Proof.Machine

/-- An outcome that carries a value. -/
abbrev Out (α : Type) := Host.Outcome α Fault Refusal

/-- Go on with the value of a next outcome; a fault or a refusal ends the instruction. -/
def andThen {α β : Type} (x : Out α) (f : α → Out β) : Out β :=
  match x with
  | .next a => f a
  | .fault r => .fault r
  | .refused r => .refused r

/-! ## The buffer space BUF (20_memory.md) -/

/-- The byte the host has supplied at an offset; an unlisted offset holds none (log 7). -/
def Memory.get : Memory → Nat → Option Byte
  | [], _ => none
  | (a', b) :: m, a => if a = a' then some b else Memory.get m a

/-- A write by the host (the block itself never writes, 20_memory.md R55). -/
def Memory.set : Memory → Nat → Byte → Memory
  | [], a, b => [(a, b)]
  | (a', b') :: m, a, b =>
    if a < a' then (a, b) :: (a', b') :: m
    else if a = a' then (a, b) :: m
    else (a', b') :: Memory.set m a b

/-- The bytes of a list at offsets `n`, `n + 1`, … -/
def Memory.fromBytes (n : Nat) : List Byte → Memory
  | [] => []
  | b :: l => (n, b) :: Memory.fromBytes (n + 1) l

/-- The canonical form: offsets strictly rising. -/
def Memory.wf : Memory → Bool
  | [] => true
  | c :: m =>
    (match m with
      | [] => true
      | d :: _ => decide (c.1 < d.1)) && Memory.wf m

/-- The buffer as a total function of the offset, for closed forms; it equals `buf[a]` at every offset
that holds a byte. -/
def State.byte (s : State) (a : Nat) : Byte := (Memory.get s.buf a).getD 0

/-- `MemRead(addr, 1)` (20_memory.md R50): past `in_len` a fault (40_cursor_primitives.md R101), at a
byte the host has not supplied a refusal (70_reset_and_hazards.md R208; log 7). A transaction never comes
to such a byte: `onStart` has refused it before. -/
def memRead (addr : Nat) (s : State) : Out Byte :=
  if addr < s.inLen then
    match Memory.get s.buf addr with
    | some b => .next b
    | none => .refused .bufferUnreadable
  else .fault .readPastEnd

/-! ## READ1 and READN (40_cursor_primitives.md) -/

/-- READ1: the bit at the cursor, and the state with the cursor advanced (R100). -/
def read1 (s : State) : Out (Bool × State) :=
  andThen (memRead (byteIdx s.cur) s) fun byte =>
    .next (wbit byte s.cur.toNat,
      { s with cur := advance s, readTrace := noteRead (byteIdx s.cur) s.readTrace })

/-- The loop of READN: `n` times READ1, each bit taken into `acc` (R102). A loop that crosses `cur = 127`
goes on at the free cursor `advance` gives there; the spec gives no such read, and where its later bits
come from is the model's choice (DESIGN CHOICE, log 11). -/
def readLoop : Nat → Half → State → Out (Half × State)
  | 0, a, s => .next (a, s)
  | n + 1, a, s =>
    andThen (read1 s) fun p =>
      readLoop n (accStep a p.1) { p.2 with acc := some (accStep a p.1) }

/-- READN: `acc <- 0`, the loop, and `acc[n-1:0]` as the value (R102). -/
def readN (n : Nat) (s : State) : Out (BitVec n × State) :=
  andThen (readLoop n 0 { s with acc := some 0 }) fun p => .next (p.1.setWidth n, p.2)

/-! ## Beginning a transaction, and the failures -/

/-- The internal registers `acc` and `z` hold no value: they exist only inside a transaction
(10_state.md R31), so START, ASSEMBLE and both failures leave none (log 19). -/
def dropInternal (s : State) : State := { s with acc := none, z := none }

/-- The effect of START (42_decode_transaction.md R140), and nothing of an earlier read is left in `acc`
or `z` (10_state.md R31, R41); `lenOk` and `readTrace` are the model's own. -/
def beginTransaction (s : State) : State :=
  { dropInternal s with
    phase := .busy
    status := .none
    cur := 0
    id := none
    qr := none
    opcodeRaw := none
    opcodeTag := none
    aa := none
    tc := none
    rd := none
    ra := none
    rcodeRaw := none
    rcodeTag := none
    qdcount := none
    ancount := none
    nscount := none
    arcount := none
    remOff := none
    remLen := none
    errBitsRequired := none
    errBitsAvailable := none
    errPattern := none
    errBitOffset := none
    lenOk := false
    readTrace := [] }

/-- Bytes 0 to 11 are all readable. -/
def State.headerReadable (s : State) : Bool :=
  (List.range Config.hdrBytes).all fun a => (Memory.get s.buf a).isSome

/-- A run with `in_len` at least 12 and bytes 0 to 11 not all readable is refused
(70_reset_and_hazards.md R208, 93_implementation_defined.md U7); a shorter buffer is never read. -/
def whenReadable (f : State → Out State) (s : State) : Out State :=
  if s.inLen < Config.hdrBytes ∨ s.headerReadable = true then f s else .refused .bufferUnreadable

/-- The host's `start`: a move of IDLE and DONE only (42_decode_transaction.md R140, R147), on a buffer
that is there (60_exceptions.md R188; log 31); `f` is what the transaction does from there. -/
def onStart (f : State → Out State) (s : State) : Out State :=
  match s.phase with
  | .busy => .refused .startWhileBusy
  | .idle => whenReadable f (beginTransaction s)
  | .done => whenReadable f (beginTransaction s)

/-- All fourteen header registers to `none`. -/
def withdrawHeader (s : State) : State :=
  { s with
    id := none
    qr := none
    opcodeRaw := none
    opcodeTag := none
    aa := none
    tc := none
    rd := none
    ra := none
    rcodeRaw := none
    rcodeTag := none
    qdcount := none
    ancount := none
    nscount := none
    arcount := none }

/-- RAISING A FAILURE (60_exceptions.md R176): the payload and `status` are recorded, the header
registers are withdrawn (R28: a failure sets every one of them to `none`; log 30), the phase is DONE and
the internal registers are gone (10_state.md R31); nothing is saved and control goes nowhere. There is no
return beside it (R179). -/
def raise (f : Failure) (s : State) : State :=
  match f with
  | .truncated required available =>
    { dropInternal (withdrawHeader s) with
      errBitsRequired := some required
      errBitsAvailable := some available
      status := f.status
      phase := .done }
  | .malformed pattern bitOffset =>
    { dropInternal (withdrawHeader s) with
      errPattern := some pattern
      errBitOffset := some bitOffset
      status := f.status
      phase := .done }

/-- `raise Truncated(96, 8 * in_len)` for a buffer of `n` bytes (60_exceptions.md R173). -/
def raiseTruncated (n : Nat) (s : State) : State := raise (.truncated 96 (8 * n)) s

/-- `raise MalformedHeader(z, 25)` (60_exceptions.md R175). -/
def raiseMalformed (z : BitVec 3) (s : State) : State := raise (.malformed z 25) s

/-! ## The steps of the sequence -/

/-- The length check (42_decode_transaction.md R141). -/
def checkLength (s : State) : Out State :=
  if s.inLen < Config.hdrBytes then .next (raiseTruncated s.inLen s)
  else .next { s with lenOk := true }

/-- `id <- READN(16)` (41_field_extraction.md R110). -/
def extractId (s : State) : Out State :=
  andThen (readN 16 s) fun p => .next { p.2 with id := some p.1 }

/-- `qr <- READN(1)` (41_field_extraction.md R111). -/
def extractQr (s : State) : Out State :=
  andThen (readN 1 s) fun p => .next { p.2 with qr := some (flagOf p.1) }

/-- `opcode_raw <- READN(4)`, `opcode_tag <- MAP.OPCODE(opcode_raw)` (41_field_extraction.md R112). -/
def extractOpcode (s : State) : Out State :=
  andThen (readN 4 s) fun p =>
    .next { p.2 with opcodeRaw := some p.1, opcodeTag := some (mapOpcode p.1).tag }

/-- `aa <- READN(1)` (41_field_extraction.md R113). -/
def extractAa (s : State) : Out State :=
  andThen (readN 1 s) fun p => .next { p.2 with aa := some (flagOf p.1) }

/-- `tc <- READN(1)` (41_field_extraction.md R114). -/
def extractTc (s : State) : Out State :=
  andThen (readN 1 s) fun p => .next { p.2 with tc := some (flagOf p.1) }

/-- `rd <- READN(1)` (41_field_extraction.md R115). -/
def extractRd (s : State) : Out State :=
  andThen (readN 1 s) fun p => .next { p.2 with rd := some (flagOf p.1) }

/-- `ra <- READN(1)` (41_field_extraction.md R116). -/
def extractRa (s : State) : Out State :=
  andThen (readN 1 s) fun p => .next { p.2 with ra := some (flagOf p.1) }

/-- `z <- READN(3)`, tested as a whole after the third bit (41_field_extraction.md R117). -/
def extractZ (s : State) : Out State :=
  andThen (readN 3 s) fun p =>
    if p.1 = 0 then .next { p.2 with z := some p.1 }
    else .next (raiseMalformed p.1 { p.2 with z := some p.1 })

/-- `rcode_raw <- READN(4)`, `rcode_tag <- MAP.RCODE(rcode_raw)` (41_field_extraction.md R118). -/
def extractRcode (s : State) : Out State :=
  andThen (readN 4 s) fun p =>
    .next { p.2 with rcodeRaw := some p.1, rcodeTag := some (mapRcode p.1).tag }

/-- `qdcount <- READN(16)` (41_field_extraction.md R119). -/
def extractQdcount (s : State) : Out State :=
  andThen (readN 16 s) fun p => .next { p.2 with qdcount := some p.1 }

/-- `ancount <- READN(16)` (41_field_extraction.md R120). -/
def extractAncount (s : State) : Out State :=
  andThen (readN 16 s) fun p => .next { p.2 with ancount := some p.1 }

/-- `nscount <- READN(16)` (41_field_extraction.md R121). -/
def extractNscount (s : State) : Out State :=
  andThen (readN 16 s) fun p => .next { p.2 with nscount := some p.1 }

/-- `arcount <- READN(16)` (41_field_extraction.md R122). -/
def extractArcount (s : State) : Out State :=
  andThen (readN 16 s) fun p => .next { p.2 with arcount := some p.1 }

/-- `in_len - 12`; run alone with `in_len < 12`, a free value (40_cursor_primitives.md R104 (e);
log 12). -/
def remainderLen (inLen : Nat) : Nat :=
  if inLen < Config.hdrBytes then Config.remLenShort inLen else inLen - Config.hdrBytes

/-- ASSEMBLE (42_decode_transaction.md R145): `rem_off` is the constant 12; the transaction ends, and with
it the internal registers (10_state.md R31). -/
def presentResult (s : State) : State :=
  { dropInternal s with
    remOff := some 12
    remLen := some (remainderLen s.inLen)
    status := .ok
    phase := .done }

/-- Steps in order, each seeing the whole effect of the one before; DONE replaces the rest
(42_decode_transaction.md R142, R143; 60_exceptions.md R176). -/
def runSteps : List (State → Out State) → State → Out State
  | [], s => .next s
  | f :: fs, s =>
    andThen (f s) fun t =>
      match t.phase with
      | .done => .next t
      | .idle => runSteps fs t
      | .busy => runSteps fs t

/-- Steps 1 to 15 of the sequence (42_decode_transaction.md R142). -/
def sequenceSteps : List (State → Out State) :=
  [checkLength, extractId, extractQr, extractOpcode, extractAa, extractTc, extractRd, extractRa,
   extractZ, extractRcode, extractQdcount, extractAncount, extractNscount, extractArcount,
   fun s => .next (presentResult s)]

/-! ## The transaction in closed form (42_decode_transaction.md R149, R150) -/

/-- The OK outcome for a header: the fourteen registers, the remainder descriptor, `cur = 96`. -/
def finishOk (h : Header) (s : State) : State :=
  presentResult { s with
    id := some h.id
    qr := some h.qr
    opcodeRaw := some (unmapOpcode h.opcode)
    opcodeTag := some (mapOpcode (unmapOpcode h.opcode)).tag
    aa := some h.aa
    tc := some h.tc
    rd := some h.rd
    ra := some h.ra
    rcodeRaw := some (unmapRcode h.rcode)
    rcodeTag := some (mapRcode (unmapRcode h.rcode)).tag
    qdcount := some h.qdcount
    ancount := some h.ancount
    nscount := some h.nscount
    arcount := some h.arcount
    cur := 96
    lenOk := true
    readTrace := [11, 10, 9, 8, 7, 6, 5, 4, 3, 2, 1, 0] }

/-- The MalformedHeader outcome for a zone: payload `(z, 25)`, `cur = 28`, bytes 0 to 3 read. -/
def finishMalformed (z : BitVec 3) (s : State) : State :=
  raiseMalformed z { s with
    cur := 28
    lenOk := true
    readTrace := [3, 2, 1, 0] }

/-- A row DECODE.OK: the length check first (60_exceptions.md R177), then the outcome OK. -/
def outcomeOk (h : Header) (s : State) : Out State :=
  onStart (fun t =>
    if t.inLen < Config.hdrBytes then .next (raiseTruncated t.inLen t) else .next (finishOk h t)) s

/-- A row DECODE.MALFORMED: the length check first (60_exceptions.md R177), then the failure. -/
def outcomeMalformed (z : BitVec 3) (s : State) : Out State :=
  onStart (fun t =>
    if t.inLen < Config.hdrBytes then .next (raiseTruncated t.inLen t)
    else .next (finishMalformed z t)) s

/-- A row DECODE.TRUNCATED: a buffer of exactly `n` bytes (log 14). -/
def outcomeTruncated (n : Nat) (s : State) : Out State :=
  onStart (fun t => .next (raiseTruncated n t)) s

/-! ## Results of stand-alone primitives, and reset -/

/-- Return a value from a stand-alone primitive or function (log 9). -/
def returning (v : Ret) (s : State) : State := { s with ret := some v }

/-- A stand-alone READN: the value is returned (40_cursor_primitives.md R102). -/
def readNAlone (n : Nat) (s : State) : Out State :=
  andThen (readN n s) fun p => .next (returning (.value n p.1.toNat) p.2)

/-- The reset event (70_reset_and_hazards.md R200): the reset state, but what the host owns is not
touched, nor are its coming turns and the counter of free values (log 24). -/
def hostReset (s : State) : State :=
  { State.reset with
    buf := s.buf
    inLen := s.inLen
    agenda := s.agenda
    hostData := s.hostData
    freeCount := s.freeCount }

end Sys2Proof.Machine
end

