-- ==== Sys2Proof/Machine/Cursor.lean ====
section
/-! DEFINITION. The meanings of the cursor primitives run alone (40_cursor_primitives.md; log 9). -/

namespace Sys2Proof.Machine

/-- READ1 run alone: returns the bit; writes `cur` only (40_cursor_primitives.md R100, R101). -/
def execRead1 (s : State) : Host.Outcome State Fault Refusal :=
  andThen (read1 s) fun p => .next (returning (.bit p.1) p.2)

/-- READN.1 run alone: returns 1 bit; writes `acc` and `cur` (40_cursor_primitives.md R102). -/
def execReadn1 (s : State) : Host.Outcome State Fault Refusal := readNAlone 1 s

/-- READN.3 run alone: returns 3 bits; writes `acc` and `cur` (40_cursor_primitives.md R102). -/
def execReadn3 (s : State) : Host.Outcome State Fault Refusal := readNAlone 3 s

/-- READN.4 run alone: returns 4 bits; writes `acc` and `cur` (40_cursor_primitives.md R102). -/
def execReadn4 (s : State) : Host.Outcome State Fault Refusal := readNAlone 4 s

/-- READN.16 run alone: returns 16 bits; writes `acc` and `cur` (40_cursor_primitives.md R102). -/
def execReadn16 (s : State) : Host.Outcome State Fault Refusal := readNAlone 16 s

end Sys2Proof.Machine
end

