-- ==== Sys2Proof/Machine/Encoder.lean ====
section
/-! DEFINITION. The meaning of ENCODE: a specification function, with no port, step or state of the block
(43_reference_encoder.md R160; log 28). -/

namespace Sys2Proof.Machine

/-- ENCODE (43_reference_encoder.md R160): returns the 12 bytes; no other state changes. -/
def execEncode (h : Header) (s : State) : Host.Outcome State Fault Refusal := .next (returning (.bytes (encodeHeader h)) s)

end Sys2Proof.Machine
end

