-- ==== Sys2Proof/Machine/Extract.lean ====
section
/-! DEFINITION. The meanings of the thirteen extraction steps (41_field_extraction.md). -/

namespace Sys2Proof.Machine

/-- RD.ID (41_field_extraction.md R110). Neither the phase nor the cursor is checked (R123; log 15). -/
def execRdId (s : State) : Host.Outcome State Fault Refusal := extractId s

/-- RD.QR (41_field_extraction.md R111). Neither the phase nor the cursor is checked (R123; log 15). -/
def execRdQr (s : State) : Host.Outcome State Fault Refusal := extractQr s

/-- RD.OPCODE (41_field_extraction.md R112). Neither the phase nor the cursor is checked (R123; log 15). -/
def execRdOpcode (s : State) : Host.Outcome State Fault Refusal := extractOpcode s

/-- RD.AA (41_field_extraction.md R113). Neither the phase nor the cursor is checked (R123; log 15). -/
def execRdAa (s : State) : Host.Outcome State Fault Refusal := extractAa s

/-- RD.TC (41_field_extraction.md R114). Neither the phase nor the cursor is checked (R123; log 15). -/
def execRdTc (s : State) : Host.Outcome State Fault Refusal := extractTc s

/-- RD.RD (41_field_extraction.md R115). Neither the phase nor the cursor is checked (R123; log 15). -/
def execRdRd (s : State) : Host.Outcome State Fault Refusal := extractRd s

/-- RD.RA (41_field_extraction.md R116). Neither the phase nor the cursor is checked (R123; log 15). -/
def execRdRa (s : State) : Host.Outcome State Fault Refusal := extractRa s

/-- RD.Z (41_field_extraction.md R117). Neither the phase nor the cursor is checked (R123; log 15). It may raise MalformedHeader, a next state. -/
def execRdZ (s : State) : Host.Outcome State Fault Refusal := extractZ s

/-- RD.RCODE (41_field_extraction.md R118). Neither the phase nor the cursor is checked (R123; log 15). -/
def execRdRcode (s : State) : Host.Outcome State Fault Refusal := extractRcode s

/-- RD.QDCOUNT (41_field_extraction.md R119). Neither the phase nor the cursor is checked (R123; log 15). -/
def execRdQdcount (s : State) : Host.Outcome State Fault Refusal := extractQdcount s

/-- RD.ANCOUNT (41_field_extraction.md R120). Neither the phase nor the cursor is checked (R123; log 15). -/
def execRdAncount (s : State) : Host.Outcome State Fault Refusal := extractAncount s

/-- RD.NSCOUNT (41_field_extraction.md R121). Neither the phase nor the cursor is checked (R123; log 15). -/
def execRdNscount (s : State) : Host.Outcome State Fault Refusal := extractNscount s

/-- RD.ARCOUNT (41_field_extraction.md R122). Neither the phase nor the cursor is checked (R123; log 15). -/
def execRdArcount (s : State) : Host.Outcome State Fault Refusal := extractArcount s

end Sys2Proof.Machine
end

