-- ==== Sys2Proof/Machine/MapCodes.lean ====
section
/-! DEFINITION. The meanings of the code-mapping rows: pure functions (41_field_extraction.md R124, R125; log 9). -/

namespace Sys2Proof.Machine

/-- MAP.OPCODE.0 (41_field_extraction.md R124): returns the variant of raw 0; writes no register. -/
def execMapOpcode0 (s : State) : Host.Outcome State Fault Refusal := .next (returning (.opcode (mapOpcode 0)) s)

/-- MAP.OPCODE.1 (41_field_extraction.md R124): returns the variant of raw 1; writes no register. -/
def execMapOpcode1 (s : State) : Host.Outcome State Fault Refusal := .next (returning (.opcode (mapOpcode 1)) s)

/-- MAP.OPCODE.2 (41_field_extraction.md R124): returns the variant of raw 2; writes no register. -/
def execMapOpcode2 (s : State) : Host.Outcome State Fault Refusal := .next (returning (.opcode (mapOpcode 2)) s)

/-- MAP.OPCODE.3 (41_field_extraction.md R124): returns the variant of raw 3; writes no register. -/
def execMapOpcode3 (s : State) : Host.Outcome State Fault Refusal := .next (returning (.opcode (mapOpcode 3)) s)

/-- MAP.OPCODE.4 (41_field_extraction.md R124): returns the variant of raw 4; writes no register. -/
def execMapOpcode4 (s : State) : Host.Outcome State Fault Refusal := .next (returning (.opcode (mapOpcode 4)) s)

/-- MAP.OPCODE.5 (41_field_extraction.md R124): returns the variant of raw 5; writes no register. -/
def execMapOpcode5 (s : State) : Host.Outcome State Fault Refusal := .next (returning (.opcode (mapOpcode 5)) s)

/-- MAP.OPCODE.6 (41_field_extraction.md R124): returns the variant of raw 6; writes no register. -/
def execMapOpcode6 (s : State) : Host.Outcome State Fault Refusal := .next (returning (.opcode (mapOpcode 6)) s)

/-- MAP.OPCODE.7 (41_field_extraction.md R124): returns the variant of raw 7; writes no register. -/
def execMapOpcode7 (s : State) : Host.Outcome State Fault Refusal := .next (returning (.opcode (mapOpcode 7)) s)

/-- MAP.OPCODE.8 (41_field_extraction.md R124): returns the variant of raw 8; writes no register. -/
def execMapOpcode8 (s : State) : Host.Outcome State Fault Refusal := .next (returning (.opcode (mapOpcode 8)) s)

/-- MAP.OPCODE.9 (41_field_extraction.md R124): returns the variant of raw 9; writes no register. -/
def execMapOpcode9 (s : State) : Host.Outcome State Fault Refusal := .next (returning (.opcode (mapOpcode 9)) s)

/-- MAP.OPCODE.10 (41_field_extraction.md R124): returns the variant of raw 10; writes no register. -/
def execMapOpcode10 (s : State) : Host.Outcome State Fault Refusal := .next (returning (.opcode (mapOpcode 10)) s)

/-- MAP.OPCODE.11 (41_field_extraction.md R124): returns the variant of raw 11; writes no register. -/
def execMapOpcode11 (s : State) : Host.Outcome State Fault Refusal := .next (returning (.opcode (mapOpcode 11)) s)

/-- MAP.OPCODE.12 (41_field_extraction.md R124): returns the variant of raw 12; writes no register. -/
def execMapOpcode12 (s : State) : Host.Outcome State Fault Refusal := .next (returning (.opcode (mapOpcode 12)) s)

/-- MAP.OPCODE.13 (41_field_extraction.md R124): returns the variant of raw 13; writes no register. -/
def execMapOpcode13 (s : State) : Host.Outcome State Fault Refusal := .next (returning (.opcode (mapOpcode 13)) s)

/-- MAP.OPCODE.14 (41_field_extraction.md R124): returns the variant of raw 14; writes no register. -/
def execMapOpcode14 (s : State) : Host.Outcome State Fault Refusal := .next (returning (.opcode (mapOpcode 14)) s)

/-- MAP.OPCODE.15 (41_field_extraction.md R124): returns the variant of raw 15; writes no register. -/
def execMapOpcode15 (s : State) : Host.Outcome State Fault Refusal := .next (returning (.opcode (mapOpcode 15)) s)

/-- MAP.RCODE.0 (41_field_extraction.md R125): returns the variant of raw 0; writes no register. -/
def execMapRcode0 (s : State) : Host.Outcome State Fault Refusal := .next (returning (.rcode (mapRcode 0)) s)

/-- MAP.RCODE.1 (41_field_extraction.md R125): returns the variant of raw 1; writes no register. -/
def execMapRcode1 (s : State) : Host.Outcome State Fault Refusal := .next (returning (.rcode (mapRcode 1)) s)

/-- MAP.RCODE.2 (41_field_extraction.md R125): returns the variant of raw 2; writes no register. -/
def execMapRcode2 (s : State) : Host.Outcome State Fault Refusal := .next (returning (.rcode (mapRcode 2)) s)

/-- MAP.RCODE.3 (41_field_extraction.md R125): returns the variant of raw 3; writes no register. -/
def execMapRcode3 (s : State) : Host.Outcome State Fault Refusal := .next (returning (.rcode (mapRcode 3)) s)

/-- MAP.RCODE.4 (41_field_extraction.md R125): returns the variant of raw 4; writes no register. -/
def execMapRcode4 (s : State) : Host.Outcome State Fault Refusal := .next (returning (.rcode (mapRcode 4)) s)

/-- MAP.RCODE.5 (41_field_extraction.md R125): returns the variant of raw 5; writes no register. -/
def execMapRcode5 (s : State) : Host.Outcome State Fault Refusal := .next (returning (.rcode (mapRcode 5)) s)

/-- MAP.RCODE.6 (41_field_extraction.md R125): returns the variant of raw 6; writes no register. -/
def execMapRcode6 (s : State) : Host.Outcome State Fault Refusal := .next (returning (.rcode (mapRcode 6)) s)

/-- MAP.RCODE.7 (41_field_extraction.md R125): returns the variant of raw 7; writes no register. -/
def execMapRcode7 (s : State) : Host.Outcome State Fault Refusal := .next (returning (.rcode (mapRcode 7)) s)

/-- MAP.RCODE.8 (41_field_extraction.md R125): returns the variant of raw 8; writes no register. -/
def execMapRcode8 (s : State) : Host.Outcome State Fault Refusal := .next (returning (.rcode (mapRcode 8)) s)

/-- MAP.RCODE.9 (41_field_extraction.md R125): returns the variant of raw 9; writes no register. -/
def execMapRcode9 (s : State) : Host.Outcome State Fault Refusal := .next (returning (.rcode (mapRcode 9)) s)

/-- MAP.RCODE.10 (41_field_extraction.md R125): returns the variant of raw 10; writes no register. -/
def execMapRcode10 (s : State) : Host.Outcome State Fault Refusal := .next (returning (.rcode (mapRcode 10)) s)

/-- MAP.RCODE.11 (41_field_extraction.md R125): returns the variant of raw 11; writes no register. -/
def execMapRcode11 (s : State) : Host.Outcome State Fault Refusal := .next (returning (.rcode (mapRcode 11)) s)

/-- MAP.RCODE.12 (41_field_extraction.md R125): returns the variant of raw 12; writes no register. -/
def execMapRcode12 (s : State) : Host.Outcome State Fault Refusal := .next (returning (.rcode (mapRcode 12)) s)

/-- MAP.RCODE.13 (41_field_extraction.md R125): returns the variant of raw 13; writes no register. -/
def execMapRcode13 (s : State) : Host.Outcome State Fault Refusal := .next (returning (.rcode (mapRcode 13)) s)

/-- MAP.RCODE.14 (41_field_extraction.md R125): returns the variant of raw 14; writes no register. -/
def execMapRcode14 (s : State) : Host.Outcome State Fault Refusal := .next (returning (.rcode (mapRcode 14)) s)

/-- MAP.RCODE.15 (41_field_extraction.md R125): returns the variant of raw 15; writes no register. -/
def execMapRcode15 (s : State) : Host.Outcome State Fault Refusal := .next (returning (.rcode (mapRcode 15)) s)

end Sys2Proof.Machine
end

