-- ==== Sys2Proof/Machine/Transaction.lean ====
section
/-! DEFINITION. The meanings of the transaction rows (42_decode_transaction.md). -/

namespace Sys2Proof.Machine

/-- START (42_decode_transaction.md R140); in BUSY the host has no such move (R147; log 16), and on a buffer
whose header cannot be read none is made of it (93_implementation_defined.md U7; log 31). -/
def execStart (s : State) : Host.Outcome State Fault Refusal := onStart (fun t => .next t) s

/-- CHK.LEN (42_decode_transaction.md R141). -/
def execChkLen (s : State) : Host.Outcome State Fault Refusal := checkLength s

/-- ASSEMBLE (42_decode_transaction.md R145). -/
def execAssemble (s : State) : Host.Outcome State Fault Refusal := .next (presentResult s)

/-- DECODE: the whole sequence as one step (42_decode_transaction.md R142; 70_reset_and_hazards.md R213). -/
def execDecode (s : State) : Host.Outcome State Fault Refusal := onStart (runSteps sequenceSteps) s

/-- DECODE.OK (42_decode_transaction.md R150; log 14). -/
def execDecodeOk (h : Header) (s : State) : Host.Outcome State Fault Refusal := outcomeOk h s

/-- DECODE.MALFORMED.1 (60_exceptions.md R174, R175; log 14). -/
def execDecodeMalformed1 (s : State) : Host.Outcome State Fault Refusal := outcomeMalformed 1 s

/-- DECODE.MALFORMED.2 (60_exceptions.md R174, R175; log 14). -/
def execDecodeMalformed2 (s : State) : Host.Outcome State Fault Refusal := outcomeMalformed 2 s

/-- DECODE.MALFORMED.3 (60_exceptions.md R174, R175; log 14). -/
def execDecodeMalformed3 (s : State) : Host.Outcome State Fault Refusal := outcomeMalformed 3 s

/-- DECODE.MALFORMED.4 (60_exceptions.md R174, R175; log 14). -/
def execDecodeMalformed4 (s : State) : Host.Outcome State Fault Refusal := outcomeMalformed 4 s

/-- DECODE.MALFORMED.5 (60_exceptions.md R174, R175; log 14). -/
def execDecodeMalformed5 (s : State) : Host.Outcome State Fault Refusal := outcomeMalformed 5 s

/-- DECODE.MALFORMED.6 (60_exceptions.md R174, R175; log 14). -/
def execDecodeMalformed6 (s : State) : Host.Outcome State Fault Refusal := outcomeMalformed 6 s

/-- DECODE.MALFORMED.7 (60_exceptions.md R174, R175; log 14). -/
def execDecodeMalformed7 (s : State) : Host.Outcome State Fault Refusal := outcomeMalformed 7 s

/-- DECODE.TRUNCATED.L0 (42_decode_transaction.md R141, 60_exceptions.md R173; log 14). -/
def execDecodeTruncatedL0 (s : State) : Host.Outcome State Fault Refusal := outcomeTruncated 0 s

/-- DECODE.TRUNCATED.L1 (42_decode_transaction.md R141, 60_exceptions.md R173; log 14). -/
def execDecodeTruncatedL1 (s : State) : Host.Outcome State Fault Refusal := outcomeTruncated 1 s

/-- DECODE.TRUNCATED.L2 (42_decode_transaction.md R141, 60_exceptions.md R173; log 14). -/
def execDecodeTruncatedL2 (s : State) : Host.Outcome State Fault Refusal := outcomeTruncated 2 s

/-- DECODE.TRUNCATED.L3 (42_decode_transaction.md R141, 60_exceptions.md R173; log 14). -/
def execDecodeTruncatedL3 (s : State) : Host.Outcome State Fault Refusal := outcomeTruncated 3 s

/-- DECODE.TRUNCATED.L4 (42_decode_transaction.md R141, 60_exceptions.md R173; log 14). -/
def execDecodeTruncatedL4 (s : State) : Host.Outcome State Fault Refusal := outcomeTruncated 4 s

/-- DECODE.TRUNCATED.L5 (42_decode_transaction.md R141, 60_exceptions.md R173; log 14). -/
def execDecodeTruncatedL5 (s : State) : Host.Outcome State Fault Refusal := outcomeTruncated 5 s

/-- DECODE.TRUNCATED.L6 (42_decode_transaction.md R141, 60_exceptions.md R173; log 14). -/
def execDecodeTruncatedL6 (s : State) : Host.Outcome State Fault Refusal := outcomeTruncated 6 s

/-- DECODE.TRUNCATED.L7 (42_decode_transaction.md R141, 60_exceptions.md R173; log 14). -/
def execDecodeTruncatedL7 (s : State) : Host.Outcome State Fault Refusal := outcomeTruncated 7 s

/-- DECODE.TRUNCATED.L8 (42_decode_transaction.md R141, 60_exceptions.md R173; log 14). -/
def execDecodeTruncatedL8 (s : State) : Host.Outcome State Fault Refusal := outcomeTruncated 8 s

/-- DECODE.TRUNCATED.L9 (42_decode_transaction.md R141, 60_exceptions.md R173; log 14). -/
def execDecodeTruncatedL9 (s : State) : Host.Outcome State Fault Refusal := outcomeTruncated 9 s

/-- DECODE.TRUNCATED.L10 (42_decode_transaction.md R141, 60_exceptions.md R173; log 14). -/
def execDecodeTruncatedL10 (s : State) : Host.Outcome State Fault Refusal := outcomeTruncated 10 s

/-- DECODE.TRUNCATED.L11 (42_decode_transaction.md R141, 60_exceptions.md R173; log 14). -/
def execDecodeTruncatedL11 (s : State) : Host.Outcome State Fault Refusal := outcomeTruncated 11 s

end Sys2Proof.Machine
end

