-- ==== Sys2Proof/Machine/Dispatch.lean ====
section
/-! DEFINITION. The dispatch: one arm per row of spec/opcode_table.json. -/

namespace Sys2Proof.Machine

def exec (i : Instr) (s : State) : Host.Outcome State Fault Refusal :=
  match i with
  | .decode => Sys2Proof.Machine.execDecode s
  | .decodeOk h => Sys2Proof.Machine.execDecodeOk h s
  | .decodeMalformed1 => Sys2Proof.Machine.execDecodeMalformed1 s
  | .decodeMalformed2 => Sys2Proof.Machine.execDecodeMalformed2 s
  | .decodeMalformed3 => Sys2Proof.Machine.execDecodeMalformed3 s
  | .decodeMalformed4 => Sys2Proof.Machine.execDecodeMalformed4 s
  | .decodeMalformed5 => Sys2Proof.Machine.execDecodeMalformed5 s
  | .decodeMalformed6 => Sys2Proof.Machine.execDecodeMalformed6 s
  | .decodeMalformed7 => Sys2Proof.Machine.execDecodeMalformed7 s
  | .decodeTruncatedL0 => Sys2Proof.Machine.execDecodeTruncatedL0 s
  | .decodeTruncatedL1 => Sys2Proof.Machine.execDecodeTruncatedL1 s
  | .decodeTruncatedL2 => Sys2Proof.Machine.execDecodeTruncatedL2 s
  | .decodeTruncatedL3 => Sys2Proof.Machine.execDecodeTruncatedL3 s
  | .decodeTruncatedL4 => Sys2Proof.Machine.execDecodeTruncatedL4 s
  | .decodeTruncatedL5 => Sys2Proof.Machine.execDecodeTruncatedL5 s
  | .decodeTruncatedL6 => Sys2Proof.Machine.execDecodeTruncatedL6 s
  | .decodeTruncatedL7 => Sys2Proof.Machine.execDecodeTruncatedL7 s
  | .decodeTruncatedL8 => Sys2Proof.Machine.execDecodeTruncatedL8 s
  | .decodeTruncatedL9 => Sys2Proof.Machine.execDecodeTruncatedL9 s
  | .decodeTruncatedL10 => Sys2Proof.Machine.execDecodeTruncatedL10 s
  | .decodeTruncatedL11 => Sys2Proof.Machine.execDecodeTruncatedL11 s
  | .start => Sys2Proof.Machine.execStart s
  | .chkLen => Sys2Proof.Machine.execChkLen s
  | .rdId => Sys2Proof.Machine.execRdId s
  | .rdQr => Sys2Proof.Machine.execRdQr s
  | .rdOpcode => Sys2Proof.Machine.execRdOpcode s
  | .rdAa => Sys2Proof.Machine.execRdAa s
  | .rdTc => Sys2Proof.Machine.execRdTc s
  | .rdRd => Sys2Proof.Machine.execRdRd s
  | .rdRa => Sys2Proof.Machine.execRdRa s
  | .rdZ => Sys2Proof.Machine.execRdZ s
  | .rdRcode => Sys2Proof.Machine.execRdRcode s
  | .rdQdcount => Sys2Proof.Machine.execRdQdcount s
  | .rdAncount => Sys2Proof.Machine.execRdAncount s
  | .rdNscount => Sys2Proof.Machine.execRdNscount s
  | .rdArcount => Sys2Proof.Machine.execRdArcount s
  | .mapOpcode0 => Sys2Proof.Machine.execMapOpcode0 s
  | .mapOpcode1 => Sys2Proof.Machine.execMapOpcode1 s
  | .mapOpcode2 => Sys2Proof.Machine.execMapOpcode2 s
  | .mapOpcode3 => Sys2Proof.Machine.execMapOpcode3 s
  | .mapOpcode4 => Sys2Proof.Machine.execMapOpcode4 s
  | .mapOpcode5 => Sys2Proof.Machine.execMapOpcode5 s
  | .mapOpcode6 => Sys2Proof.Machine.execMapOpcode6 s
  | .mapOpcode7 => Sys2Proof.Machine.execMapOpcode7 s
  | .mapOpcode8 => Sys2Proof.Machine.execMapOpcode8 s
  | .mapOpcode9 => Sys2Proof.Machine.execMapOpcode9 s
  | .mapOpcode10 => Sys2Proof.Machine.execMapOpcode10 s
  | .mapOpcode11 => Sys2Proof.Machine.execMapOpcode11 s
  | .mapOpcode12 => Sys2Proof.Machine.execMapOpcode12 s
  | .mapOpcode13 => Sys2Proof.Machine.execMapOpcode13 s
  | .mapOpcode14 => Sys2Proof.Machine.execMapOpcode14 s
  | .mapOpcode15 => Sys2Proof.Machine.execMapOpcode15 s
  | .mapRcode0 => Sys2Proof.Machine.execMapRcode0 s
  | .mapRcode1 => Sys2Proof.Machine.execMapRcode1 s
  | .mapRcode2 => Sys2Proof.Machine.execMapRcode2 s
  | .mapRcode3 => Sys2Proof.Machine.execMapRcode3 s
  | .mapRcode4 => Sys2Proof.Machine.execMapRcode4 s
  | .mapRcode5 => Sys2Proof.Machine.execMapRcode5 s
  | .mapRcode6 => Sys2Proof.Machine.execMapRcode6 s
  | .mapRcode7 => Sys2Proof.Machine.execMapRcode7 s
  | .mapRcode8 => Sys2Proof.Machine.execMapRcode8 s
  | .mapRcode9 => Sys2Proof.Machine.execMapRcode9 s
  | .mapRcode10 => Sys2Proof.Machine.execMapRcode10 s
  | .mapRcode11 => Sys2Proof.Machine.execMapRcode11 s
  | .mapRcode12 => Sys2Proof.Machine.execMapRcode12 s
  | .mapRcode13 => Sys2Proof.Machine.execMapRcode13 s
  | .mapRcode14 => Sys2Proof.Machine.execMapRcode14 s
  | .mapRcode15 => Sys2Proof.Machine.execMapRcode15 s
  | .assemble => Sys2Proof.Machine.execAssemble s
  | .read1 => Sys2Proof.Machine.execRead1 s
  | .readn1 => Sys2Proof.Machine.execReadn1 s
  | .readn3 => Sys2Proof.Machine.execReadn3 s
  | .readn4 => Sys2Proof.Machine.execReadn4 s
  | .readn16 => Sys2Proof.Machine.execReadn16 s
  | .encode h => Sys2Proof.Machine.execEncode h s

end Sys2Proof.Machine
end

