-- ==== Sys2Proof/Machine/Fetch.lean ====
section
/-! DEFINITION. What a recogniser sees of the buffer when a table row is run by itself (log 2, log 29).
The hard-wired sequence fetches nothing (20_memory.md R62); these reads are the model's and leave no
read event. -/

namespace Sys2Proof.Machine

/-- Bytes `a`, `a + 1`, …, `n` of them. -/
def readBytes (s : State) : Nat → Nat → Out (List Byte)
  | _, 0 => .next []
  | a, n + 1 =>
    andThen (memRead a s) fun b => andThen (readBytes s (a + 1) n) fun l => .next (b :: l)

/-- Bytes 0 to 11; a shorter buffer only by its length, since its content does not matter
(42_decode_transaction.md R141). -/
def headerBytes (s : State) : Out (List Byte) :=
  if s.inLen < Config.hdrBytes then .next (zeroBuf s.inLen) else readBytes s 0 Config.hdrBytes

/-- Bytes 2 and 3, where the flags word is (30_encoding.md R73); a shorter buffer only by its length. -/
def flagsBytes (s : State) : Out (List Byte) :=
  if s.inLen < 4 then .next (zeroBuf s.inLen)
  else andThen (readBytes s 2 2) fun l => .next (0 :: 0 :: l)

/-- The bytes the selected recogniser looks at; a recogniser whose rows fix no bit looks at none. -/
def fetchBytes (sel : Sel) (s : State) : Out (List Byte) :=
  match sel with
  | .outcome => headerBytes s
  | .encode => headerBytes s
  | .mapOpcode => flagsBytes s
  | .mapRcode => flagsBytes s
  | .decode | .start | .chkLen | .assemble | .read1 | .readn1 | .readn3 | .readn4 | .readn16
  | .rdId | .rdQr | .rdOpcode | .rdAa | .rdTc | .rdRd | .rdRa | .rdZ | .rdRcode | .rdQdcount
  | .rdAncount | .rdNscount | .rdArcount => .next []

end Sys2Proof.Machine
end

