-- ==== Sys2Proof/Machine/HostPort.lean ====
section
/-! DEFINITION. The host's side: what each port shows, and the host's moves (60_exceptions.md R188). -/

namespace Sys2Proof.Machine

/-- A register that is valid only when `done` and `status` is `want` (10_state.md R38, port list). -/
def validIn (want : Status) (s : State) (v : Option PortVal) : Option PortVal :=
  if s.phase = .done ∧ s.status = want then v else none

/-- What a port shows the host, if anything. `busy` and `done` always; `status` and the result registers
only in DONE, each only for the `status` that entitles the host to it (10_state.md R36, R37, R38;
70_reset_and_hazards.md R210; log 18). -/
def portValue (p : Port) (s : State) : Option PortVal :=
  match p with
  | .busy => some (.flag s.busy)
  | .done => some (.flag s.done)
  | .status => if s.phase = .done then some (.status s.status) else none
  | .id => validIn .ok s (s.id.map fun v => .num v.toNat)
  | .qr => validIn .ok s (s.qr.map .flag)
  | .opcodeRaw => validIn .ok s (s.opcodeRaw.map fun v => .num v.toNat)
  | .opcodeTag => validIn .ok s (s.opcodeTag.map .opcodeTag)
  | .aa => validIn .ok s (s.aa.map .flag)
  | .tc => validIn .ok s (s.tc.map .flag)
  | .rd => validIn .ok s (s.rd.map .flag)
  | .ra => validIn .ok s (s.ra.map .flag)
  | .rcodeRaw => validIn .ok s (s.rcodeRaw.map fun v => .num v.toNat)
  | .rcodeTag => validIn .ok s (s.rcodeTag.map .rcodeTag)
  | .qdcount => validIn .ok s (s.qdcount.map fun v => .num v.toNat)
  | .ancount => validIn .ok s (s.ancount.map fun v => .num v.toNat)
  | .nscount => validIn .ok s (s.nscount.map fun v => .num v.toNat)
  | .arcount => validIn .ok s (s.arcount.map fun v => .num v.toNat)
  | .remOff => validIn .ok s (s.remOff.map fun v => .num v.toNat)
  | .remLen => validIn .ok s (s.remLen.map .num)
  | .errBitsRequired => validIn .truncated s (s.errBitsRequired.map fun v => .num v.toNat)
  | .errBitsAvailable => validIn .truncated s (s.errBitsAvailable.map .num)
  | .errPattern => validIn .malformed s (s.errPattern.map fun v => .num v.toNat)
  | .errBitOffset => validIn .malformed s (s.errBitOffset.map fun v => .num v.toNat)

/-- A host read of a port: its value, or a fault where it shows none (10_state.md R36). Reading changes
nothing of the block (42_decode_transaction.md R148). -/
def hostRead (p : Port) (s : State) : Out State :=
  match portValue p s with
  | some v => .next { s with hostData := some v }
  | none => .fault (.readOfNone p)

/-- Bytes 0 to 11 of two buffers are the same (70_reset_and_hazards.md R207). -/
def sameHeaderBytes (m m' : Memory) : Bool :=
  (List.range Config.hdrBytes).all fun a => decide (Memory.get m a = Memory.get m' a)

/-- The host gives its buffer and `in_len` new values: while BUSY only if `in_len` and bytes 0 to 11
stay as they are (70_reset_and_hazards.md R207, 60_exceptions.md R188; log 17). -/
def hostSupply (m : Memory) (n : Nat) (s : State) : Out State :=
  if s.phase = .busy ∧ ¬ (n = s.inLen ∧ sameHeaderBytes s.buf m = true) then
    .refused .bufferChanged
  else .next { s with buf := m, inLen := n }

/-- The header of an OK result, put together from the registers (00_scope.md R12, 10_state.md R25,
R26): what the host has when it has read them all. -/
def State.header (s : State) : Option Header := do
  some {
    id := ← s.id
    qr := ← s.qr
    opcode := mapOpcode (← s.opcodeRaw)
    aa := ← s.aa
    tc := ← s.tc
    rd := ← s.rd
    ra := ← s.ra
    rcode := mapRcode (← s.rcodeRaw)
    qdcount := ← s.qdcount
    ancount := ← s.ancount
    nscount := ← s.nscount
    arcount := ← s.arcount }

/-- The host's moves other than `start`, which is the row START. -/
def hostMove (m : HostMove) (s : State) : Out State :=
  match m with
  | .start => onStart (fun t => .next t) s
  | .rst => .next (hostReset s)
  | .read p => hostRead p s
  | .load bytes => hostSupply (Memory.fromBytes 0 bytes) bytes.length s
  | .poke a b => hostSupply (Memory.set s.buf a b) s.inLen s
  | .setLen n => hostSupply s.buf n s

end Sys2Proof.Machine
end

