-- ==== Sys2Proof/Machine/Step.lean ====
section
/-! DEFINITION. One step: the turn at the head of the agenda, or the decoder's turn when there is none
(10_state.md R20; log 1). -/

namespace Sys2Proof.Machine

/-- Whose turn it is; with nothing on the agenda, the decoder's. -/
def State.turn (s : State) : Turn := s.agenda.headD .decoder

/-- What every step does around the move itself: the turn is taken off the agenda and the counter of
free values goes on. -/
def State.pop (s : State) : State :=
  { s with agenda := s.agenda.tail, freeCount := s.freeCount + 1 }

/-- Run a row by itself: fetch what its recogniser looks at, decode, and execute. -/
def runRow (sel : Sel) (s : State) : Host.Outcome State Fault Refusal :=
  andThen (fetchBytes sel s) fun bytes =>
    match decode sel bytes with
    | .ok i => exec i s.pop
    | .error r => .refused (.undecodable r)

/-- The decoder's own turn (42_decode_transaction.md R142, R148). -/
def decoderTurn (s : State) : Host.Outcome State Fault Refusal :=
  match sequencer s with
  | .idle => .next s.pop
  | .instr i => exec i s.pop
  | .offSequence => .fault .cursorOffSequence

/-- One step of the machine. -/
def step (s : State) : Host.Outcome State Fault Refusal :=
  match s.turn with
  | .decoder => decoderTurn s
  | .host .start => exec .start s.pop
  | .host m => hostMove m s.pop
  | .run sel => runRow sel s

/-- `s` with the instruction of a table word placed so that the very next step runs it: its selector as
the next turn and, where the word has bits of its own, its bytes as the host's buffer (log 3, log 4). -/
def State.withFetchWord (s : State) (nbits w : Nat) : State :=
  match tableWord nbits w with
  | some (sel, some bytes) =>
    { s with
      buf := Memory.fromBytes 0 bytes
      inLen := bytes.length
      agenda := .run sel :: s.agenda }
  | some (sel, none) => { s with agenda := .run sel :: s.agenda }
  | none => s

end Sys2Proof.Machine
end

