-- ==== Sys2Proof/Machine/Instances.lean ====
section
/-! DEFINITION. Several instances: the product of their states, and one instance's step in it
(60_exceptions.md R187, 20_memory.md R63; log 23). -/

namespace Sys2Proof.Machine

/-- Instance `k` takes one step; the others keep their states. Two points are the model's choice, the
rules being silent (DESIGN CHOICE, log 23): where the instance's step faults or is refused, the run of the
whole fleet ends there, and an index with no instance does nothing. -/
def fleetStep (k : Nat) (fleet : List State) : Out (List State) :=
  match fleet[k]? with
  | none => .next fleet
  | some s => andThen (step s) fun t => .next (fleet.set k t)

/-- An interleaving: the instances named step one after another. -/
def fleetRun : List Nat → List State → Out (List State)
  | [], fleet => .next fleet
  | k :: ks, fleet => andThen (fleetStep k fleet) (fleetRun ks)

end Sys2Proof.Machine
end

