-- ==== Sys2Proof/Safety.lean ====
section
/-! DEFINITION. What a proper result is (42_decode_transaction.md R149, 70_reset_and_hazards.md R214), what
a turn within the contract is, and the invariant every step keeps in such runs. -/

namespace Sys2Proof.Machine

/-- No header register holds a value. -/
def State.noHeader (s : State) : Prop :=
  s.id = none ∧ s.qr = none ∧ s.opcodeRaw = none ∧ s.opcodeTag = none ∧ s.aa = none ∧ s.tc = none ∧
  s.rd = none ∧ s.ra = none ∧ s.rcodeRaw = none ∧ s.rcodeTag = none ∧ s.qdcount = none ∧
  s.ancount = none ∧ s.nscount = none ∧ s.arcount = none

/-- All fourteen header registers hold the values of the header `h` (10_state.md R25, R26). -/
def State.holdsHeader (s : State) (h : Header) : Prop :=
  s.id = some h.id ∧ s.qr = some h.qr ∧ s.opcodeRaw = some (unmapOpcode h.opcode) ∧
  s.opcodeTag = some h.opcode.tag ∧ s.aa = some h.aa ∧ s.tc = some h.tc ∧ s.rd = some h.rd ∧
  s.ra = some h.ra ∧ s.rcodeRaw = some (unmapRcode h.rcode) ∧ s.rcodeTag = some h.rcode.tag ∧
  s.qdcount = some h.qdcount ∧ s.ancount = some h.ancount ∧ s.nscount = some h.nscount ∧
  s.arcount = some h.arcount

/-- No remainder descriptor (10_state.md R35). -/
def State.noRemainder (s : State) : Prop := s.remOff = none ∧ s.remLen = none

/-- No payload of `Truncated` (10_state.md R34). -/
def State.noTruncated (s : State) : Prop := s.errBitsRequired = none ∧ s.errBitsAvailable = none

/-- No payload of `MalformedHeader` (10_state.md R34). -/
def State.noMalformed (s : State) : Prop := s.errPattern = none ∧ s.errBitOffset = none

/-- The internal registers hold no value, as outside a transaction (10_state.md R31). -/
def State.noInternal (s : State) : Prop := s.acc = none ∧ s.z = none

/-- The result of a finished transaction, by `status` (42_decode_transaction.md R149, 60_exceptions.md R182):
which registers hold values, which values the failures leave, and the final cursor. -/
def State.resultShape (s : State) : Prop :=
  match s.status with
  | .none => False
  | .ok =>
    (∃ h : Header, h.wf = true ∧ s.holdsHeader h) ∧ s.remOff = some 12 ∧ (∃ n, s.remLen = some n) ∧
    s.noTruncated ∧ s.noMalformed ∧ s.cur = 96 ∧ s.noInternal
  | .truncated =>
    s.noHeader ∧ s.noRemainder ∧ s.noMalformed ∧ s.errBitsRequired = some 96 ∧
    (∃ n, n < 12 ∧ s.errBitsAvailable = some (8 * n)) ∧ s.cur = 0 ∧ s.noInternal
  | .malformed =>
    s.noHeader ∧ s.noRemainder ∧ s.noTruncated ∧ (∃ p, p ≠ 0 ∧ s.errPattern = some p) ∧
    s.errBitOffset = some 25 ∧ s.cur = 28 ∧ s.noInternal

/-- A run is final (70_reset_and_hazards.md R214). -/
def State.final (s : State) : Prop := s.phase = .done ∧ s.resultShape

/-- Inside a transaction, a header register holds the buffer's value once the cursor is past its field,
and nothing before that (41_field_extraction.md R127). -/
def readSoFar {α : Type} (s : State) (cursorOut : Nat) (r : Option α) (v : α) : Prop :=
  r = if cursorOut ≤ s.cur.toNat then some v else none

/-- Every byte of the header is held by the buffer: the host's duty of 70_reset_and_hazards.md R202 for a
buffer of at least 12 bytes. -/
def State.headerHeld (s : State) : Prop := ∀ a, a < 12 → (Memory.get s.buf a).isSome = true

/-- The buffer a START needs: fewer than 12 bytes, which are not read, or a header all of which can be
read (60_exceptions.md R188, 93_implementation_defined.md U7). -/
def State.supplied (s : State) : Prop := s.inLen < 12 ∨ s.headerHeld

/-- A transaction under way: no result, and exactly the fields behind the cursor read, each with the
value the buffer has there (42_decode_transaction.md R142, 41_field_extraction.md R127); the buffer the
host owes it at START (60_exceptions.md R188); and the internal registers hold nothing before their first
write (10_state.md R31). -/
def State.underWay (s : State) : Prop :=
  s.status = .none ∧ s.noRemainder ∧ s.noTruncated ∧ s.noMalformed ∧
  (s.lenOk = false → s.cur = 0) ∧ (s.lenOk = true → 12 ≤ s.inLen) ∧ (stepAt s.cur).isSome = true ∧
  s.supplied ∧
  readSoFar s 16 s.id (headerOf s.byte).id ∧ readSoFar s 17 s.qr (headerOf s.byte).qr ∧
  readSoFar s 21 s.opcodeRaw (opcodeRawOf s.byte) ∧
  readSoFar s 21 s.opcodeTag (headerOf s.byte).opcode.tag ∧
  readSoFar s 22 s.aa (headerOf s.byte).aa ∧ readSoFar s 23 s.tc (headerOf s.byte).tc ∧
  readSoFar s 24 s.rd (headerOf s.byte).rd ∧ readSoFar s 25 s.ra (headerOf s.byte).ra ∧
  ((28 ≤ s.cur.toNat → s.z = some 0 ∧ zoneOf s.byte = 0) ∧ (s.cur.toNat < 28 → s.z = none) ∧
    (s.cur.toNat = 0 → s.acc = none)) ∧
  readSoFar s 32 s.rcodeRaw (rcodeRawOf s.byte) ∧
  readSoFar s 32 s.rcodeTag (headerOf s.byte).rcode.tag ∧
  readSoFar s 48 s.qdcount (headerOf s.byte).qdcount ∧
  readSoFar s 64 s.ancount (headerOf s.byte).ancount ∧
  readSoFar s 80 s.nscount (headerOf s.byte).nscount ∧
  readSoFar s 96 s.arcount (headerOf s.byte).arcount

/-- Just reset: no result and no transaction (10_state.md R40). -/
def State.justReset (s : State) : Prop :=
  s.status = .none ∧ s.noHeader ∧ s.noRemainder ∧ s.noTruncated ∧ s.noMalformed ∧ s.cur = 0 ∧
  s.noInternal

/-- A turn within the contract: the decoder, any move of the host, a whole transaction, or a pure
function. A single step of the sequence or a cursor primitive run alone is not (log 2, log 15). -/
def Turn.inContract : Turn → Bool
  | .decoder => true
  | .host _ => true
  | .run sel =>
    match sel with
    | .decode | .outcome | .start | .mapOpcode | .mapRcode | .encode => true
    | .chkLen | .assemble | .read1 | .readn1 | .readn3 | .readn4 | .readn16 | .rdId | .rdQr
    | .rdOpcode | .rdAa | .rdTc | .rdRd | .rdRa | .rdZ | .rdRcode | .rdQdcount | .rdAncount
    | .rdNscount | .rdArcount => false

/-- The invariant of runs within the contract. -/
structure Inv (s : State) : Prop where
  /-- The buffer keeps its canonical form. -/
  memory : Memory.wf s.buf = true
  /-- The turns to come are within the contract. -/
  contract : s.agenda.all Turn.inContract = true
  /-- The bytes read so far are exactly those the cursor has reached, in ascending order
  (20_memory.md R51, R59). -/
  trace : s.readTrace = (List.range ((s.cur.toNat + 7) / 8)).reverse
  /-- Each phase has its registers (10_state.md R40, 42_decode_transaction.md R142, R149). -/
  shape :
    match s.phase with
    | .idle => s.justReset
    | .busy => s.underWay
    | .done => s.resultShape

/-- What READN of `n` bits needs: the bits exist (40_cursor_primitives.md R101), the host has supplied
their bytes, and the cursor stays within its 7 bits. -/
def State.canRead (s : State) (n : Nat) : Prop :=
  s.cur.toNat + n ≤ 127 ∧ s.cur.toNat + n ≤ 8 * s.inLen ∧
  ∀ a, s.cur.toNat / 8 ≤ a → 8 * a < s.cur.toNat + n → (Memory.get s.buf a).isSome = true

/-- The state after READN of `n` bits, apart from the register its value goes to
(40_cursor_primitives.md R102, R103). -/
def State.afterRead (s : State) (n : Nat) : State :=
  { s with
    acc := some (BitVec.ofNat 16 (wbits s.byte s.cur.toNat n))
    cur := BitVec.ofNat 7 (s.cur.toNat + n)
    readTrace := noteReads s.cur.toNat n s.readTrace }

/-- The outcome OK with header `h` and a remainder of `n` bytes (42_decode_transaction.md R149). -/
def State.resultOk (s : State) (h : Header) (n : Nat) : Prop :=
  s.phase = .done ∧ s.status = .ok ∧ s.holdsHeader h ∧ s.remOff = some 12 ∧ s.remLen = some n ∧
  s.noTruncated ∧ s.noMalformed ∧ s.cur = 96 ∧ s.noInternal

/-- The outcome Truncated for a buffer of `n` bytes (42_decode_transaction.md R149). -/
def State.resultTruncated (s : State) (n : Nat) : Prop :=
  s.phase = .done ∧ s.status = .truncated ∧ s.noHeader ∧ s.noRemainder ∧ s.noMalformed ∧
  s.errBitsRequired = some 96 ∧ s.errBitsAvailable = some (8 * n) ∧ s.cur = 0 ∧ s.noInternal

/-- The outcome MalformedHeader for the zone `z` (42_decode_transaction.md R149). -/
def State.resultMalformed (s : State) (z : BitVec 3) : Prop :=
  s.phase = .done ∧ s.status = .malformed ∧ s.noHeader ∧ s.noRemainder ∧ s.noTruncated ∧
  s.errPattern = some z ∧ s.errBitOffset = some 25 ∧ s.cur = 28 ∧ s.noInternal

/-- What the decoder's own instructions leave to others: the host's buffer, its length, its last read
and its coming turns, and the counter of free values. -/
def State.sameHost (s t : State) : Prop :=
  t.buf = s.buf ∧ t.inLen = s.inLen ∧ t.hostData = s.hostData ∧ t.agenda = s.agenda ∧
  t.freeCount = s.freeCount

/-- Two states that agree on the phase, the status, the cursor, the internal registers and every result
register but `rem_len`. -/
def State.sameOutcome (s t : State) : Prop :=
  t.phase = s.phase ∧ t.status = s.status ∧ t.cur = s.cur ∧ t.id = s.id ∧ t.qr = s.qr ∧
  t.opcodeRaw = s.opcodeRaw ∧ t.opcodeTag = s.opcodeTag ∧ t.aa = s.aa ∧ t.tc = s.tc ∧ t.rd = s.rd ∧
  t.ra = s.ra ∧ t.rcodeRaw = s.rcodeRaw ∧ t.rcodeTag = s.rcodeTag ∧ t.qdcount = s.qdcount ∧
  t.ancount = s.ancount ∧ t.nscount = s.nscount ∧ t.arcount = s.arcount ∧ t.remOff = s.remOff ∧
  t.errBitsRequired = s.errBitsRequired ∧ t.errBitsAvailable = s.errBitsAvailable ∧
  t.errPattern = s.errPattern ∧ t.errBitOffset = s.errBitOffset ∧
  t.acc = s.acc ∧ t.z = s.z

/-- Two states that agree on `cur`, the phase, the internal registers and all the host's inputs, but
perhaps not on `status` or on any header register. -/
def State.sameControl (s t : State) : Prop :=
  t.phase = s.phase ∧ t.cur = s.cur ∧ t.lenOk = s.lenOk ∧ t.acc = s.acc ∧ t.z = s.z ∧
  t.readTrace = s.readTrace ∧ t.buf = s.buf ∧ t.inLen = s.inLen ∧ t.freeCount = s.freeCount

end Sys2Proof.Machine
end

