-- ==== Sys2Proof/Certificates/Slice0/Obligations.lean ====
section
/-! DEFINITION. The statements for the provers, each a formula about the machine; the rule of the spec
it follows is named in its docstring. -/

open Sys2Proof Sys2Proof.Machine

/-! ## Reset -/

/-- R40: after reset there is no result and no transaction, and nothing can be read. -/
def Obligations.ResetHoldsNothing : Prop :=
  State.reset.phase = .idle ∧ State.reset.justReset ∧ State.reset.busy = false ∧
  State.reset.done = false ∧ sequencer State.reset = .idle ∧
  ∀ p, p ≠ .busy → p ≠ .done → portValue p State.reset = none

/-- R200: the reset event, in any phase: no result, no transaction, the buffer untouched. That `in_len` and
the coming turns stay is read from 10_state.md R21 and R38, by which they are the host's (DEDUCED, log 24;
turns: log 1). -/
def Obligations.RstFromAnyState : Prop :=
  ∀ (s : State) (rest : List Turn), s.agenda = .host .rst :: rest →
    ∃ t, step s = .next t ∧ t.phase = .idle ∧ t.justReset ∧ t.buf = s.buf ∧ t.inLen = s.inLen ∧
      t.agenda = rest ∧ sequencer t = .idle

/-- The invariant holds at reset (with an empty agenda and an empty buffer: logs 4, 22; no byte in the trace
of reads: log 10). -/
def Obligations.InvAtReset : Prop := Inv State.reset

/-! ## A step -/

/-- A step runs the decoded instruction: a row run alone is `exec` of what its recogniser finds; the
decoder's turn in BUSY is `exec` of the step of the sequence; `start` is `exec` of START. Around it the step
only takes its turn off the agenda and counts on. In IDLE and DONE the decoder takes no step of its own
(R148): its turn changes nothing of the block (that an idle turn is a step at all is the model's choice, log
20). Turns are log 1, the selector of a row run alone log 2, the counter of free values log 13. -/
def Obligations.StepRunsInstruction : Prop :=
  ∀ (s : State) (i : Instr) (rest : List Turn),
    (∀ sel bytes, s.agenda = .run sel :: rest → fetchBytes sel s = .next bytes →
      decode sel bytes = .ok i →
      step s = exec i { s with agenda := rest, freeCount := s.freeCount + 1 }) ∧
    (s.agenda = .decoder :: rest → sequencer s = .instr i →
      step s = exec i { s with agenda := rest, freeCount := s.freeCount + 1 }) ∧
    (s.agenda = [] → sequencer s = .instr i →
      step s = exec i { s with freeCount := s.freeCount + 1 }) ∧
    (s.agenda = .host .start :: rest →
      step s = exec .start { s with agenda := rest, freeCount := s.freeCount + 1 }) ∧
    (s.phase ≠ .busy → s.agenda = .decoder :: rest →
      step s = .next { s with agenda := rest, freeCount := s.freeCount + 1 }) ∧
    (s.phase ≠ .busy → s.agenda = [] → step s = .next { s with freeCount := s.freeCount + 1 })

/-- A table word is placed where the very next step runs the instruction the decoder reads from it. How a
bare table word is placed is the model's choice (logs 3, 4). -/
def Obligations.TableWordRuns : Prop :=
  ∀ (s : State) (nbits w : Nat) (i : Instr), decodeTableWord nbits w = some i →
    step (s.withFetchWord nbits w) =
      exec i { s.withFetchWord nbits w with agenda := s.agenda, freeCount := s.freeCount + 1 }

/-- R142: the sequence is hard-wired; in BUSY the position is fixed by `cur` and by whether the length
check has passed (the latter is the model's own field, log 8). -/
def Obligations.SequenceOrder : Prop :=
  ∀ s : State, s.phase = .busy →
    (s.lenOk = false → sequencer s = .instr .chkLen) ∧
    (s.lenOk = true →
      (s.cur = 0 → sequencer s = .instr .rdId) ∧ (s.cur = 16 → sequencer s = .instr .rdQr) ∧
      (s.cur = 17 → sequencer s = .instr .rdOpcode) ∧ (s.cur = 21 → sequencer s = .instr .rdAa) ∧
      (s.cur = 22 → sequencer s = .instr .rdTc) ∧ (s.cur = 23 → sequencer s = .instr .rdRd) ∧
      (s.cur = 24 → sequencer s = .instr .rdRa) ∧ (s.cur = 25 → sequencer s = .instr .rdZ) ∧
      (s.cur = 28 → sequencer s = .instr .rdRcode) ∧
      (s.cur = 32 → sequencer s = .instr .rdQdcount) ∧
      (s.cur = 48 → sequencer s = .instr .rdAncount) ∧
      (s.cur = 64 → sequencer s = .instr .rdNscount) ∧
      (s.cur = 80 → sequencer s = .instr .rdArcount) ∧
      (s.cur = 96 → sequencer s = .instr .assemble))

/-- R148: after DONE the result stays until the next START or reset. Every turn within the contract that is
not one of these leaves the phase, the status and all result registers; `busy`, `done` and a host read
change nothing of the block. The turns and the contract are the model's (logs 1, 2, 15), and so is that an
idle turn is a step (log 20); that the internal registers stay as they are, none after a transaction, is
read from R31 (log 19). -/
def Obligations.ResultStays : Prop :=
  ∀ (s t : State), s.phase = .done →
    (∀ m, s.turn = .host m → m ≠ .start ∧ m ≠ .rst) →
    (∀ sel, s.turn = .run sel → sel = .mapOpcode ∨ sel = .mapRcode ∨ sel = .encode) →
    step s = .next t → s.sameOutcome t ∧ t.remLen = s.remLen

/-! ## The wire format -/

/-- Words written out from the spec's encodings: the source's sample header, one row of each other family
with bits, and the header of 30_encoding.md R72 with every field at a value of its own. The selector, and
how a word is numbered, are the model's (logs 2, 3, 27). -/
def Obligations.SampleWordsDecode : Prop :=
  decodeTableWord 96 0x658c81800001000100000001 = some (.decodeOk
    ⟨0x658c, true, .query, false, false, true, true, .noError, 1, 1, 0, 1⟩) ∧
  decodeTableWord 96 0xbeef7a0a0002000300040005 = some (.decodeOk
    ⟨0xbeef, false, .reserved 15, false, true, false, false, .reserved 10, 2, 3, 4, 5⟩) ∧
  decodeTableWord 16 0x0050 = some .decodeMalformed5 ∧
  decodeTableWord 16 0x1800 = some .mapOpcode3 ∧ decodeTableWord 16 0x0005 = some .mapRcode5 ∧
  decodeTableWord 80 0x658c8180000100010000 = some .decodeTruncatedL10 ∧
  decode .rdZ [0xff] = .ok .rdZ ∧
  decode .encode [0x65, 0x8c, 0x81, 0x90, 0, 1, 0, 1, 0, 0, 0, 1] = .error .reservedZone

/-- Decode and encode agree: every well-formed instruction, every operand at every value. The selector that
goes with the bytes is the model's (log 2), and so is ENCODE's operand (log 28). -/
def Obligations.DecodeOfEncode : Prop :=
  ∀ i : Instr, i.wf = true → decode (encode i).1 (encode i).2 = .ok i

/-- R53, R74: a 16-bit field at wire offset `8 * a` is `buf[a] * 256 + buf[a+1]`; the layout byte by
byte: each field of the format is that slice of its byte, and it is the bits at its wire offsets (R71). -/
def Obligations.LayoutByByte : Prop :=
  ∀ b : Nat → Byte,
    (∀ a, wbits b (8 * a) 16 = (b a).toNat * 256 + (b (a + 1)).toNat ∧
      (beHalf (b a) (b (a + 1))).toNat = (b a).toNat * 256 + (b (a + 1)).toNat) ∧
    (BitVec.ofNat 16 (wbits b 0 16) = b 0 ++ b 1) ∧
    (wbits b 16 1 = (b 2).toNat / 128 % 2) ∧ (wbits b 17 4 = (b 2).toNat / 8 % 16) ∧
    (wbits b 21 1 = (b 2).toNat / 4 % 2) ∧ (wbits b 22 1 = (b 2).toNat / 2 % 2) ∧
    (wbits b 23 1 = (b 2).toNat % 2) ∧ (wbits b 24 1 = (b 3).toNat / 128 % 2) ∧
    (wbits b 25 3 = (b 3).toNat / 16 % 8) ∧ (wbits b 28 4 = (b 3).toNat % 16) ∧
    (BitVec.ofNat 16 (wbits b 32 16) = b 4 ++ b 5) ∧
    (BitVec.ofNat 16 (wbits b 48 16) = b 6 ++ b 7) ∧
    (BitVec.ofNat 16 (wbits b 64 16) = b 8 ++ b 9) ∧
    (BitVec.ofNat 16 (wbits b 80 16) = b 10 ++ b 11) ∧
    (headerOf b).id = b 0 ++ b 1 ∧ (headerOf b).qr = (b 2)[7] ∧
    opcodeRawOf b = (b 2).extractLsb' 3 4 ∧ (headerOf b).aa = (b 2)[2] ∧
    (headerOf b).tc = (b 2)[1] ∧ (headerOf b).rd = (b 2)[0] ∧ (headerOf b).ra = (b 3)[7] ∧
    zoneOf b = (b 3).extractLsb' 4 3 ∧ rcodeRawOf b = (b 3).extractLsb' 0 4 ∧
    (headerOf b).qdcount = b 4 ++ b 5 ∧ (headerOf b).ancount = b 6 ++ b 7 ∧
    (headerOf b).nscount = b 8 ++ b 9 ∧ (headerOf b).arcount = b 10 ++ b 11

/-- R73: the flags word and its fields, in value bits of `F`. -/
def Obligations.FlagsWordFields : Prop :=
  ∀ b : Nat → Byte,
    (flagsWord b).toNat = (b 2).toNat * 256 + (b 3).toNat ∧
    (headerOf b).qr = (flagsWord b)[15] ∧ opcodeRawOf b = (flagsWord b).extractLsb' 11 4 ∧
    (headerOf b).aa = (flagsWord b)[10] ∧ (headerOf b).tc = (flagsWord b)[9] ∧
    (headerOf b).rd = (flagsWord b)[8] ∧ (headerOf b).ra = (flagsWord b)[7] ∧
    zoneOf b = (flagsWord b).extractLsb' 4 3 ∧ rcodeRawOf b = (flagsWord b).extractLsb' 0 4 ∧
    flagsWord b = BitVec.ofNat 16 (wbits b 16 16)

/-- A FLAGS16 row applies exactly when `F & mask = match` (30_encoding.md R86, with the masks of R73 and the
code points of R77, R78, R80). The selector is the model's (log 2). -/
def Obligations.FlagsRowsApply : Prop :=
  ∀ bytes : List Byte,
    (∀ raw : BitVec 4, 4 ≤ bytes.length →
      (decode .mapOpcode bytes = .ok (mapOpcodeRow raw) ↔
        flagsWord (byteAt bytes) &&& (0x7800 : Half) = raw.setWidth 16 <<< 11) ∧
      (decode .mapRcode bytes = .ok (mapRcodeRow raw) ↔
        flagsWord (byteAt bytes) &&& (0x000f : Half) = raw.setWidth 16)) ∧
    (∀ (z : BitVec 3) (h : Header), z ≠ 0 → 12 ≤ bytes.length →
      (decode .outcome bytes = .ok (zoneRow z h) ↔
        flagsWord (byteAt bytes) &&& (0x0070 : Half) = z.setWidth 16 <<< 4))

/-- The classification is total on any bytes, by length first, then by the reserved zone (30_encoding.md
R81). The selector is the model's (log 2). -/
def Obligations.ThreeClasses : Prop :=
  ∀ bytes : List Byte,
    (bytes.length < 12 → decode .outcome bytes = .ok (truncatedRow bytes.length)) ∧
    (12 ≤ bytes.length → byteAt bytes 3 &&& 0x70 ≠ 0 →
      zoneOf (byteAt bytes) ≠ 0 ∧ decode .outcome bytes =
        .ok (zoneRow (zoneOf (byteAt bytes)) (headerOf (byteAt bytes)))) ∧
    (12 ≤ bytes.length → byteAt bytes 3 &&& 0x70 = 0 →
      decode .outcome bytes = .ok (.decodeOk (headerOf (byteAt bytes))))

/-- R124, R125: the two code mappings on all raw values, with their tags, and injective into pairs
(R124). -/
def Obligations.CodeMappings : Prop :=
  mapOpcode 0 = .query ∧ mapOpcode 1 = .inverseQuery ∧ mapOpcode 2 = .status ∧
  (∀ raw : BitVec 4, 3 ≤ raw.toNat → mapOpcode raw = .reserved raw) ∧
  (mapOpcode 0).tag.code = 0 ∧ (mapOpcode 1).tag.code = 1 ∧ (mapOpcode 2).tag.code = 2 ∧
  (∀ raw : BitVec 4, 3 ≤ raw.toNat → (mapOpcode raw).tag.code = 3) ∧
  (∀ r r' : BitVec 4, mapOpcode r = mapOpcode r' → r = r') ∧
  mapRcode 0 = .noError ∧ mapRcode 1 = .formatError ∧ mapRcode 2 = .serverFailure ∧
  mapRcode 3 = .nameError ∧ mapRcode 4 = .notImplemented ∧ mapRcode 5 = .refused ∧
  (∀ raw : BitVec 4, 6 ≤ raw.toNat → mapRcode raw = .reserved raw) ∧
  (∀ raw : BitVec 4, raw.toNat < 6 → (mapRcode raw).tag.code.toNat = raw.toNat) ∧
  (∀ raw : BitVec 4, 6 ≤ raw.toNat → (mapRcode raw).tag.code = 6)

/-- R161: the raw value of a variant, and the two inverses. -/
def Obligations.MapUnmap : Prop :=
  (∀ raw : BitVec 4, unmapOpcode (mapOpcode raw) = raw ∧ unmapRcode (mapRcode raw) = raw) ∧
  (∀ v : Opcode, v.wf = true → mapOpcode (unmapOpcode v) = v) ∧
  (∀ v : Rcode, v.wf = true → mapRcode (unmapRcode v) = v) ∧
  unmapOpcode .query = 0 ∧ unmapOpcode .inverseQuery = 1 ∧ unmapOpcode .status = 2 ∧
  (∀ raw, unmapOpcode (.reserved raw) = raw) ∧ unmapRcode .noError = 0 ∧
  unmapRcode .formatError = 1 ∧ unmapRcode .serverFailure = 2 ∧ unmapRcode .nameError = 3 ∧
  unmapRcode .notImplemented = 4 ∧ unmapRcode .refused = 5 ∧
  (∀ raw, unmapRcode (.reserved raw) = raw)

/-- R163: when a header is well-formed; every header the decoder produces is; and the round trip of a
header through its bytes holds for the well-formed ones only. -/
def Obligations.DecodedHeadersWellFormed : Prop :=
  (∀ h : Header, h.wf = true ↔
    (∀ raw, h.opcode = .reserved raw → 3 ≤ raw.toNat ∧ raw.toNat ≤ 15) ∧
    (∀ raw, h.rcode = .reserved raw → 6 ≤ raw.toNat ∧ raw.toNat ≤ 15)) ∧
  (∀ b : Nat → Byte, (headerOf b).wf = true) ∧
  (∀ h : Header, headerOf (byteAt (encodeHeader h)) = h ↔ h.wf = true)

/-- R183: the violating wire bits of a zone pattern, and the first of them. -/
def Obligations.ViolatingBits : Prop :=
  ∀ p : BitVec 3,
    (∀ i, i < 3 → (25 + i ∈ violatingBits p ↔ p.getLsbD (2 - i) = true)) ∧
    (p ≠ 0 → (violatingBits p).head? = some (firstViolating p)) ∧
    (4 ≤ p.toNat → firstViolating p = 25) ∧
    (2 ≤ p.toNat → p.toNat < 4 → firstViolating p = 26) ∧ (p.toNat < 2 → firstViolating p = 27)

/-! ## The cursor primitives -/

/-- R100: READ1 returns the bit at the cursor and advances the cursor by one; nothing else changes. `ret`
and `readTrace` are the model's own (logs 9, 10), and so is that it runs alone in every phase (log 15). -/
def Obligations.Read1Reads : Prop :=
  ∀ s : State, s.canRead 1 →
    exec .read1 s = .next { s with
      ret := some (.bit ((s.byte (s.cur.toNat / 8)).getLsbD (7 - s.cur.toNat % 8)))
      cur := s.cur + 1
      readTrace := noteRead (s.cur.toNat / 8) s.readTrace }

/-- R101: READ1 run alone with `cur >= 8 * in_len` is a fault, and only then; inside DECODE it never
happens. That it runs alone in every phase is the model's choice (log 15). -/
def Obligations.Read1FaultsPastEnd : Prop :=
  (∀ s : State, exec .read1 s = .fault .readPastEnd ↔ 8 * s.inLen ≤ s.cur.toNat) ∧
  ∀ s : State, exec .decode s ≠ .fault .readPastEnd

/-- Where a value is open the instruction still completes, and of the value nothing is said: READ1 at
`cur = 127` returns its bit, a READN whose last bit is wire bit 127 returns its bits, and the 7-bit cursor becomes
a free value (10_state.md R29; log 11); ASSEMBLE run alone with fewer than 12 bytes writes a free `rem_len`
(40_cursor_primitives.md R104 (e); log 12). A primitive or ASSEMBLE run alone does so in every phase,
ASSEMBLE at every cursor (log 15); that ASSEMBLE leaves no value in the internal registers is read from
10_state.md R31 (DEDUCED, log 19); `ret` and `readTrace` are the model's own (logs 9, 10). -/
def Obligations.OpenValuesComplete : Prop :=
  ∀ s : State,
    (s.cur = 127 → 16 ≤ s.inLen → (Memory.get s.buf 15).isSome = true →
      ∃ c, exec .read1 s = .next { s with
        ret := some (.bit ((s.byte 15).getLsbD 0))
        cur := c
        readTrace := noteRead 15 s.readTrace }) ∧
    (∀ (n : Nat) (i : Instr), (n, i) ∈ [(1, Instr.readn1), (3, .readn3), (4, .readn4), (16, .readn16)] →
      s.cur.toNat + n = 128 → 16 ≤ s.inLen →
      (∀ a, s.cur.toNat / 8 ≤ a → a < 16 → (Memory.get s.buf a).isSome = true) →
      ∃ c, exec i s = .next { s.afterRead n with
        cur := c, ret := some (.value n (wbits s.byte s.cur.toNat n)) }) ∧
    (s.inLen < 12 → ∃ n, exec .assemble s = .next { s with
      remOff := some 12, remLen := some n, status := .ok, phase := .done, acc := none, z := none })

/-- READN.1, .3, .4 and .16 return the `n` bits at the cursor, the first one most significant, and write
`acc` and `cur` only (40_cursor_primitives.md R102, R103). `ret` and `readTrace` are the model's own (logs
9, 10), and so is that READN runs alone in every phase (log 15). -/
def Obligations.ReadnReads : Prop :=
  ∀ s : State,
    (s.canRead 1 → exec .readn1 s =
      .next { s.afterRead 1 with ret := some (.value 1 (wbits s.byte s.cur.toNat 1)) }) ∧
    (s.canRead 3 → exec .readn3 s =
      .next { s.afterRead 3 with ret := some (.value 3 (wbits s.byte s.cur.toNat 3)) }) ∧
    (s.canRead 4 → exec .readn4 s =
      .next { s.afterRead 4 with ret := some (.value 4 (wbits s.byte s.cur.toNat 4)) }) ∧
    (s.canRead 16 → exec .readn16 s =
      .next { s.afterRead 16 with ret := some (.value 16 (wbits s.byte s.cur.toNat 16)) })

/-- R103: READN in closed form: the value is the weighted sum of the wire bits, the cursor goes on by
`n`, and the bytes it reads are those from `c div 8` to `(c + n - 1) div 8` and no others (told by the
trace of reads, the model's own field: log 10). -/
def Obligations.ReadnClosedForm : Prop :=
  ∀ (n : Nat) (s : State), 1 ≤ n → n ≤ 16 → s.canRead n →
    ∃ (v : BitVec n) (t : State), readN n s = .next (v, t) ∧
      v.toNat = wbits s.byte s.cur.toNat n ∧
      v.toNat = ∑ i ∈ Finset.range n,
        (wbit (s.byte ((s.cur.toNat + i) / 8)) (s.cur.toNat + i)).toNat * 2 ^ (n - 1 - i) ∧
      t.cur.toNat = s.cur.toNat + n ∧
      (s.readTrace = [] → ∀ a, a ∈ t.readTrace ↔
        s.cur.toNat / 8 ≤ a ∧ a ≤ (s.cur.toNat + n - 1) / 8)

/-- R105: two reads in a row are one read split, from any cursor. -/
def Obligations.ReadsCompose : Prop :=
  ∀ (n₁ n₂ : Nat) (s : State), n₁ + n₂ ≤ 16 → s.canRead (n₁ + n₂) →
    ∃ (v₁ : BitVec n₁) (v₂ : BitVec n₂) (v : BitVec (n₁ + n₂)) (t₁ t₂ t : State),
      readN n₁ s = .next (v₁, t₁) ∧ readN n₂ t₁ = .next (v₂, t₂) ∧
      readN (n₁ + n₂) s = .next (v, t) ∧
      v₁.toNat * 2 ^ n₂ + v₂.toNat = v.toNat ∧ v.toNat = wbits s.byte s.cur.toNat (n₁ + n₂) ∧
      t₂.cur = t.cur

/-- Nothing overflows (40_cursor_primitives.md R104): a field fits its register, the accumulate step
loses no bit, the 7-bit cursor stays within 0 to 96 in every run within the contract and every step of
the sequence adds to it without wrapping (which runs: logs 2, 15), and with an `in_len` of any admissible
width the derived lengths fit theirs. -/
def Obligations.NothingOverflows : Prop :=
  (∀ (b : Nat → Byte) (c n : Nat), wbits b c n < 2 ^ n) ∧
  (∀ (b : Nat → Byte) (c n : Nat) (x : Bool), n < 16 →
    (accStep (BitVec.ofNat 16 (wbits b c n)) x).toNat = 2 * wbits b c n + x.toNat) ∧
  (∀ (w : Nat) (s t : State), Config.lenWOk w → s.inLen < 2 ^ w → exec .decode s = .next t →
    (∀ n, t.remLen = some n → n < 2 ^ w ∧ n + 12 = s.inLen) ∧
    (∀ n, t.errBitsAvailable = some n → n < 2 ^ (w + 3) ∧ n = 8 * s.inLen)) ∧
  (∀ s : State, Inv s → s.cur.toNat ≤ 96 ∧
    ∀ (i : Instr) (t : State), sequencer s = .instr i → exec i s = .next t →
      t.cur.toNat ≤ 96 ∧ ∃ n, n ≤ 16 ∧ t.cur.toNat = s.cur.toNat + n)

/-- R30: the pair form of the cursor is the same state. -/
def Obligations.CursorPairForm : Prop :=
  ∀ c : BitVec 7, c.toNat = 8 * byteIdx c + bitOff c ∧ bitOff c < 8 ∧
    (c.toNat < 96 → (byteIdx (c + 1), bitOff (c + 1)) = pairAdvance (byteIdx c, bitOff c)) ∧
    (c.toNat ≤ 96 → byteIdx c ≤ 12)

/-- Where a read stops. READ1 at a byte the host has not supplied is refused (70_reset_and_hazards.md
R208; log 7), and so is every READN and RD step that comes to such a byte. A READN or RD step that would
run past the end of the buffer faults (40_cursor_primitives.md R101) where the bytes before the end are
supplied; an RD step comes to that only when it is run alone, out of its place (log 15). Of a read past
wire bit 127 nothing is said (log 11). -/
def Obligations.ReadsStop : Prop :=
  (∀ s : State, exec .read1 s = .refused .bufferUnreadable ↔
    s.cur.toNat < 8 * s.inLen ∧ Memory.get s.buf (s.cur.toNat / 8) = none) ∧
  ∀ (s : State) (n : Nat) (is : List Instr),
    (n, is) ∈ [(1, [Instr.readn1, .rdQr, .rdAa, .rdTc, .rdRd, .rdRa]), (3, [.readn3, .rdZ]),
      (4, [.readn4, .rdOpcode, .rdRcode]),
      (16, [.readn16, .rdId, .rdQdcount, .rdAncount, .rdNscount, .rdArcount])] →
    (∀ a, s.cur.toNat / 8 ≤ a → 8 * a < s.cur.toNat + n → a < s.inLen → a < 16 →
      Memory.get s.buf a = none → ∀ i ∈ is, exec i s = .refused .bufferUnreadable) ∧
    (s.inLen < 16 → 8 * s.inLen < s.cur.toNat + n →
      (∀ a, s.cur.toNat / 8 ≤ a → a < s.inLen → (Memory.get s.buf a).isSome = true) →
      ∀ i ∈ is, exec i s = .fault .readPastEnd)

/-! ## The extraction steps -/

/-- RD.ID and the four counts (41_field_extraction.md R110, R119 to R122): the value is the 16 bits at the
cursor and only the step's own register, `acc` and `cur` change; at the step's "cursor in" it is the
step's two bytes. That a step run alone does so at every cursor and in every phase is the model's choice
(log 15; R123 gives it in BUSY at its "cursor in"), and the trace of reads is the model's own (log 10). -/
def Obligations.HalfSteps : Prop :=
  ∀ s : State, s.canRead 16 →
    exec .rdId s = .next { s.afterRead 16 with
      id := some (BitVec.ofNat 16 (wbits s.byte s.cur.toNat 16)) } ∧
    exec .rdQdcount s = .next { s.afterRead 16 with
      qdcount := some (BitVec.ofNat 16 (wbits s.byte s.cur.toNat 16)) } ∧
    exec .rdAncount s = .next { s.afterRead 16 with
      ancount := some (BitVec.ofNat 16 (wbits s.byte s.cur.toNat 16)) } ∧
    exec .rdNscount s = .next { s.afterRead 16 with
      nscount := some (BitVec.ofNat 16 (wbits s.byte s.cur.toNat 16)) } ∧
    exec .rdArcount s = .next { s.afterRead 16 with
      arcount := some (BitVec.ofNat 16 (wbits s.byte s.cur.toNat 16)) } ∧
    (s.cur = 0 → ∃ t, exec .rdId s = .next t ∧ t.cur = 16 ∧
      t.id = some (s.byte 0 ++ s.byte 1)) ∧
    (s.cur = 32 → ∃ t, exec .rdQdcount s = .next t ∧ t.cur = 48 ∧
      t.qdcount = some (s.byte 4 ++ s.byte 5)) ∧
    (s.cur = 48 → ∃ t, exec .rdAncount s = .next t ∧ t.cur = 64 ∧
      t.ancount = some (s.byte 6 ++ s.byte 7)) ∧
    (s.cur = 64 → ∃ t, exec .rdNscount s = .next t ∧ t.cur = 80 ∧
      t.nscount = some (s.byte 8 ++ s.byte 9)) ∧
    (s.cur = 80 → ∃ t, exec .rdArcount s = .next t ∧ t.cur = 96 ∧
      t.arcount = some (s.byte 10 ++ s.byte 11))

/-- RD.QR, RD.AA, RD.TC, RD.RD and RD.RA (41_field_extraction.md R111, R113 to R116): the flag is the bit at
the cursor and only the step's own register, `acc` and `cur` change; at the step's "cursor in" it is the
step's bit. That a step run alone does so at every cursor and in every phase is the model's choice
(log 15; R123 gives it in BUSY at its "cursor in"), and the trace of reads is the model's own (log 10). -/
def Obligations.FlagSteps : Prop :=
  ∀ s : State, s.canRead 1 →
    exec .rdQr s = .next { s.afterRead 1 with
      qr := some ((s.byte (s.cur.toNat / 8)).getLsbD (7 - s.cur.toNat % 8)) } ∧
    exec .rdAa s = .next { s.afterRead 1 with
      aa := some ((s.byte (s.cur.toNat / 8)).getLsbD (7 - s.cur.toNat % 8)) } ∧
    exec .rdTc s = .next { s.afterRead 1 with
      tc := some ((s.byte (s.cur.toNat / 8)).getLsbD (7 - s.cur.toNat % 8)) } ∧
    exec .rdRd s = .next { s.afterRead 1 with
      rd := some ((s.byte (s.cur.toNat / 8)).getLsbD (7 - s.cur.toNat % 8)) } ∧
    exec .rdRa s = .next { s.afterRead 1 with
      ra := some ((s.byte (s.cur.toNat / 8)).getLsbD (7 - s.cur.toNat % 8)) } ∧
    (s.cur = 16 → ∃ t, exec .rdQr s = .next t ∧ t.cur = 17 ∧ t.qr = some (s.byte 2)[7]) ∧
    (s.cur = 21 → ∃ t, exec .rdAa s = .next t ∧ t.cur = 22 ∧ t.aa = some (s.byte 2)[2]) ∧
    (s.cur = 22 → ∃ t, exec .rdTc s = .next t ∧ t.cur = 23 ∧ t.tc = some (s.byte 2)[1]) ∧
    (s.cur = 23 → ∃ t, exec .rdRd s = .next t ∧ t.cur = 24 ∧ t.rd = some (s.byte 2)[0]) ∧
    (s.cur = 24 → ∃ t, exec .rdRa s = .next t ∧ t.cur = 25 ∧ t.ra = some (s.byte 3)[7])

/-- RD.OPCODE and RD.RCODE (41_field_extraction.md R112, R118): the raw value at the cursor and its tag;
only these registers, `acc` and `cur` change; at the step's "cursor in" it is the step's four bits. That a
step run alone does so at every cursor and in every phase is the model's choice (log 15; R123 gives it in
BUSY at its "cursor in"), and the trace of reads is the model's own (log 10). -/
def Obligations.CodeSteps : Prop :=
  ∀ s : State, s.canRead 4 →
    (∃ raw : BitVec 4, raw = BitVec.ofNat 4 (wbits s.byte s.cur.toNat 4) ∧
      exec .rdOpcode s = .next { s.afterRead 4 with
        opcodeRaw := some raw
        opcodeTag := some (if raw = 0 then .query else if raw = 1 then .inverseQuery
          else if raw = 2 then .status else .reserved) } ∧
      exec .rdRcode s = .next { s.afterRead 4 with
        rcodeRaw := some raw
        rcodeTag := some (if raw = 0 then .noError else if raw = 1 then .formatError
          else if raw = 2 then .serverFailure else if raw = 3 then .nameError
          else if raw = 4 then .notImplemented else if raw = 5 then .refused else .reserved) }) ∧
    (s.cur = 17 → ∃ t, exec .rdOpcode s = .next t ∧ t.cur = 21 ∧
      t.opcodeRaw = some ((s.byte 2).extractLsb' 3 4)) ∧
    (s.cur = 28 → ∃ t, exec .rdRcode s = .next t ∧ t.cur = 32 ∧
      t.rcodeRaw = some ((s.byte 3).extractLsb' 0 4))

/-- RD.Z (41_field_extraction.md R117) reads three bits, then tests them together: zero goes on and keeps
nothing in the record; anything else raises MalformedHeader with the pattern and offset 25, the cursor past
all three bits in both outcomes. The model's own in it: that a step run alone does so at every cursor and
in every phase (log 15), that a failure withdraws all fourteen header registers whatever was written
(log 30), that the internal registers are gone with the failure itself (log 19), and the trace (log 10). -/
def Obligations.ZoneStep : Prop :=
  ∀ s : State, s.canRead 3 →
    (wbits s.byte s.cur.toNat 3 = 0 → exec .rdZ s = .next { s.afterRead 3 with z := some 0 }) ∧
    (∀ p : BitVec 3, p.toNat = wbits s.byte s.cur.toNat 3 → p ≠ 0 →
      exec .rdZ s = .next { s.afterRead 3 with
        z := none, errPattern := some p, errBitOffset := some 25, status := .malformed
        phase := .done, id := none, qr := none, opcodeRaw := none, opcodeTag := none, aa := none
        tc := none, rd := none, ra := none, rcodeRaw := none, rcodeTag := none, qdcount := none
        ancount := none, nscount := none, arcount := none, acc := none }) ∧
    (s.cur = 25 → wbits s.byte s.cur.toNat 3 = (s.byte 3).toNat / 16 % 8 ∧
      ∃ t, exec .rdZ s = .next t ∧ t.cur = 28)

/-- No step of the sequence reads `status` or a header register to decide what to do (10_state.md R39): in
two states that differ in those alone it goes the same way. `lenOk`, the trace of reads and the counter of
free values, which the two states share, are the model's own (logs 8, 10, 13), and so is that a step run
alone does so in every phase (log 15). -/
def Obligations.FlagsSteerNothing : Prop :=
  ∀ (i : Instr) (s t s' : State), i ∈ [Instr.chkLen, .rdId, .rdQr, .rdOpcode, .rdAa, .rdTc, .rdRd,
      .rdRa, .rdZ, .rdRcode, .rdQdcount, .rdAncount, .rdNscount, .rdArcount, .assemble] →
    s.sameControl t → exec i s = .next s' → ∃ t', exec i t = .next t' ∧ s'.sameControl t'

/-! ## START, CHK.LEN, ASSEMBLE -/

/-- START (42_decode_transaction.md R140) in IDLE or DONE: BUSY, NONE, cursor 0, and every result
register holds no value; nor does an internal register (10_state.md R31, R41; log 19). `lenOk` and
`readTrace` are the model's own (logs 8, 10). A buffer of 12 bytes or more whose bytes 0 to 11 are not
all readable is refused (70_reset_and_hazards.md R208, 93_implementation_defined.md U7; that the refusal
comes with START is read from 60_exceptions.md R188, log 31). -/
def Obligations.StartBegins : Prop :=
  ∀ s : State, s.phase ≠ .busy →
    (s.supplied → exec .start s = .next { s with
      phase := .busy, status := .none, cur := 0, id := none, qr := none, opcodeRaw := none
      opcodeTag := none, aa := none, tc := none, rd := none, ra := none, rcodeRaw := none
      rcodeTag := none, qdcount := none, ancount := none, nscount := none, arcount := none
      remOff := none, remLen := none, errBitsRequired := none, errBitsAvailable := none
      errPattern := none, errBitOffset := none, acc := none, z := none, lenOk := false
      readTrace := [] }) ∧
    (¬ s.supplied → exec .start s = .refused .bufferUnreadable)

/-- `start` while BUSY has no meaning (42_decode_transaction.md R147), in START, DECODE and every outcome row; the
model refuses (log 16). -/
def Obligations.StartInBusyRefused : Prop :=
  ∀ (s : State), s.phase = .busy →
    (∀ i, i ∈ [Instr.start, .decode, .decodeMalformed1, .decodeMalformed2, .decodeMalformed3,
        .decodeMalformed4, .decodeMalformed5, .decodeMalformed6, .decodeMalformed7,
        .decodeTruncatedL0, .decodeTruncatedL1, .decodeTruncatedL2, .decodeTruncatedL3,
        .decodeTruncatedL4, .decodeTruncatedL5, .decodeTruncatedL6, .decodeTruncatedL7,
        .decodeTruncatedL8, .decodeTruncatedL9, .decodeTruncatedL10, .decodeTruncatedL11] →
      exec i s = .refused .startWhileBusy) ∧
    (∀ h, exec (.decodeOk h) s = .refused .startWhileBusy)

/-- CHK.LEN (42_decode_transaction.md R141) fails exactly for 0 to 11 bytes, on the length alone, with
`(96, 8 * in_len)`; from 12 bytes on it changes no register. The model's own in it: `lenOk` (log 8), that
CHK.LEN run alone does so in every phase (log 15), that the failure withdraws the header registers in any
state (log 30), and that the internal registers are gone with the failure itself (log 19). -/
def Obligations.LengthCheck : Prop :=
  ∀ s : State,
    (s.inLen < 12 → exec .chkLen s = .next { s with
      errBitsRequired := some 96, errBitsAvailable := some (8 * s.inLen), status := .truncated
      phase := .done, id := none, qr := none, opcodeRaw := none, opcodeTag := none, aa := none
      tc := none, rd := none, ra := none, rcodeRaw := none, rcodeTag := none, qdcount := none
      ancount := none, nscount := none, arcount := none, acc := none, z := none }) ∧
    (12 ≤ s.inLen → exec .chkLen s = .next { s with lenOk := true })

/-- ASSEMBLE (42_decode_transaction.md R145) presents the result: offset 12, length `in_len - 12`, OK, DONE.
R145 gives it at `cur = 96` with all registers written; that ASSEMBLE run alone does so in every phase and
at every cursor is the model's choice (log 15), and so is that the internal registers are gone with this
step (log 19). -/
def Obligations.AssemblePresents : Prop :=
  ∀ s : State, 12 ≤ s.inLen →
    exec .assemble s = .next { s with
      remOff := some 12, remLen := some (s.inLen - 12), status := .ok, phase := .done
      acc := none, z := none }

/-! ## Pure functions -/

/-- The sixteen rows MAP.OPCODE and the sixteen rows MAP.RCODE return their variant and write no register
(41_field_extraction.md R124, R125; 30_encoding.md R77, R78). The field `ret` is the model's own (log 9). -/
def Obligations.MapRows : Prop :=
  ∀ s : State,
    exec .mapOpcode0 s = .next { s with ret := some (.opcode .query) } ∧
    exec .mapOpcode1 s = .next { s with ret := some (.opcode .inverseQuery) } ∧
    exec .mapOpcode2 s = .next { s with ret := some (.opcode .status) } ∧
    exec .mapOpcode3 s = .next { s with ret := some (.opcode (.reserved 3)) } ∧
    exec .mapOpcode4 s = .next { s with ret := some (.opcode (.reserved 4)) } ∧
    exec .mapOpcode5 s = .next { s with ret := some (.opcode (.reserved 5)) } ∧
    exec .mapOpcode6 s = .next { s with ret := some (.opcode (.reserved 6)) } ∧
    exec .mapOpcode7 s = .next { s with ret := some (.opcode (.reserved 7)) } ∧
    exec .mapOpcode8 s = .next { s with ret := some (.opcode (.reserved 8)) } ∧
    exec .mapOpcode9 s = .next { s with ret := some (.opcode (.reserved 9)) } ∧
    exec .mapOpcode10 s = .next { s with ret := some (.opcode (.reserved 10)) } ∧
    exec .mapOpcode11 s = .next { s with ret := some (.opcode (.reserved 11)) } ∧
    exec .mapOpcode12 s = .next { s with ret := some (.opcode (.reserved 12)) } ∧
    exec .mapOpcode13 s = .next { s with ret := some (.opcode (.reserved 13)) } ∧
    exec .mapOpcode14 s = .next { s with ret := some (.opcode (.reserved 14)) } ∧
    exec .mapOpcode15 s = .next { s with ret := some (.opcode (.reserved 15)) } ∧
    exec .mapRcode0 s = .next { s with ret := some (.rcode .noError) } ∧
    exec .mapRcode1 s = .next { s with ret := some (.rcode .formatError) } ∧
    exec .mapRcode2 s = .next { s with ret := some (.rcode .serverFailure) } ∧
    exec .mapRcode3 s = .next { s with ret := some (.rcode .nameError) } ∧
    exec .mapRcode4 s = .next { s with ret := some (.rcode .notImplemented) } ∧
    exec .mapRcode5 s = .next { s with ret := some (.rcode .refused) } ∧
    exec .mapRcode6 s = .next { s with ret := some (.rcode (.reserved 6)) } ∧
    exec .mapRcode7 s = .next { s with ret := some (.rcode (.reserved 7)) } ∧
    exec .mapRcode8 s = .next { s with ret := some (.rcode (.reserved 8)) } ∧
    exec .mapRcode9 s = .next { s with ret := some (.rcode (.reserved 9)) } ∧
    exec .mapRcode10 s = .next { s with ret := some (.rcode (.reserved 10)) } ∧
    exec .mapRcode11 s = .next { s with ret := some (.rcode (.reserved 11)) } ∧
    exec .mapRcode12 s = .next { s with ret := some (.rcode (.reserved 12)) } ∧
    exec .mapRcode13 s = .next { s with ret := some (.rcode (.reserved 13)) } ∧
    exec .mapRcode14 s = .next { s with ret := some (.rcode (.reserved 14)) } ∧
    exec .mapRcode15 s = .next { s with ret := some (.rcode (.reserved 15)) }

/-- R160: ENCODE returns the 12 bytes of its header, the reserved zone zero, and changes no other state. The
flag bytes are given by their weights. That it runs as an instruction is the model's choice (log 28), and
the field `ret` is the model's own (log 9). -/
def Obligations.EncodeReturnsBytes : Prop :=
  ∀ (h : Header) (s : State), ∃ e₂ e₃ : Byte,
    exec (.encode h) s = .next { s with ret := some (.bytes
      [h.id.extractLsb' 8 8, h.id.extractLsb' 0 8, e₂, e₃,
       h.qdcount.extractLsb' 8 8, h.qdcount.extractLsb' 0 8,
       h.ancount.extractLsb' 8 8, h.ancount.extractLsb' 0 8,
       h.nscount.extractLsb' 8 8, h.nscount.extractLsb' 0 8,
       h.arcount.extractLsb' 8 8, h.arcount.extractLsb' 0 8]) } ∧
    e₂.toNat = 128 * h.qr.toNat + 8 * (unmapOpcode h.opcode).toNat + 4 * h.aa.toNat +
      2 * h.tc.toNat + h.rd.toNat ∧
    e₃.toNat = 128 * h.ra.toNat + (unmapRcode h.rcode).toNat

/-! ## The transaction -/

/-- DECODE in one step is the closed form (42_decode_transaction.md R142, R150): for every buffer with
fewer than 12 bytes or with all of bytes 0 to 11 readable, the outcome by length and reserved zone, and
every register of the spec: result registers, phase, status and cursor with their values, the internal
registers gone (10_state.md R31; log 19). Any other buffer is refused (70_reset_and_hazards.md R208,
93_implementation_defined.md U7; log 31). -/
def Obligations.DecodeClosedForm : Prop :=
  ∀ s : State, s.phase ≠ .busy →
    (s.inLen < 12 → ∃ t, exec .decode s = .next t ∧ t.resultTruncated s.inLen) ∧
    (12 ≤ s.inLen → s.headerHeld → (s.byte 3).extractLsb' 4 3 ≠ 0 →
      ∃ t, exec .decode s = .next t ∧ t.resultMalformed ((s.byte 3).extractLsb' 4 3)) ∧
    (12 ≤ s.inLen → s.headerHeld → (s.byte 3).extractLsb' 4 3 = 0 →
      ∃ t, exec .decode s = .next t ∧ t.resultOk (headerOf s.byte) (s.inLen - 12)) ∧
    (12 ≤ s.inLen → ¬ s.headerHeld → exec .decode s = .refused .bufferUnreadable)

/-- The step machine and the closed form agree (42_decode_transaction.md R151): from `start` to DONE, the
decoder's own steps one after another end in the outcome of the closed form, and leave the host's buffer
as it was. Sixteen steps are enough for every outcome (R144); those past DONE are idle turns (log 20),
and who steps is told by the agenda (log 1). That the internal registers are gone at DONE is read from
10_state.md R31 (DEDUCED, log 19). A buffer of 12 bytes or more whose bytes 0 to 11 are not all readable
is refused with START itself (70_reset_and_hazards.md R208, 93_implementation_defined.md U7; log 31). -/
def Obligations.StepMachineAgrees : Prop :=
  ∀ s : State, s.phase ≠ .busy → s.agenda = [.host .start] →
    (s.inLen < 12 → ∃ t, core.run 16 s = .next t ∧ t.resultTruncated s.inLen ∧ t.buf = s.buf) ∧
    (12 ≤ s.inLen → s.headerHeld → (s.byte 3).extractLsb' 4 3 ≠ 0 →
      ∃ t, core.run 16 s = .next t ∧ t.resultMalformed ((s.byte 3).extractLsb' 4 3) ∧
        t.buf = s.buf) ∧
    (12 ≤ s.inLen → s.headerHeld → (s.byte 3).extractLsb' 4 3 = 0 →
      ∃ t, core.run 16 s = .next t ∧ t.resultOk (headerOf s.byte) (s.inLen - 12) ∧ t.buf = s.buf) ∧
    (12 ≤ s.inLen → ¬ s.headerHeld → core.run 1 s = .refused .bufferUnreadable)

/-- The step counts of the outcomes (42_decode_transaction.md R144): DONE is reached with step 2, 10 or
16, counting START, and the decoder is BUSY after every earlier one. Who steps is told by the agenda (log
1); the premise on the buffer is the host's duty of 60_exceptions.md R188. -/
def Obligations.StepCounts : Prop :=
  ∀ s : State, s.phase ≠ .busy → s.agenda = [.host .start] →
    s.supplied →
    ∃ n, (n = if s.inLen < 12 then 2 else if zoneOf s.byte ≠ 0 then 10 else 16) ∧
      (∀ k, 1 ≤ k → k < n → ∃ t, core.run k s = .next t ∧ t.phase = .busy) ∧
      (∃ t, core.run n s = .next t ∧ t.phase = .done)

/-- A row of the outcome classes, run alone on the buffer it is found in, leaves exactly the state that
DECODE leaves (42_decode_transaction.md R150, R151; logs 2, 14, 29). -/
def Obligations.OutcomeRowsAgree : Prop :=
  ∀ (s : State) (bytes : List Byte) (i : Instr), s.phase ≠ .busy →
    fetchBytes .outcome s = .next bytes → decode .outcome bytes = .ok i →
    exec i s = exec .decode s

/-- The row DECODE.OK completes with its header's values in every state that is not BUSY and has at least
12 bytes, the first 12 readable; with fewer the length check goes first (60_exceptions.md R177). The row
as a transaction of its own is log 14, the internal registers gone log 19. A buffer whose bytes 0 to 11
are not all readable is refused there (93_implementation_defined.md U7; log 31). -/
def Obligations.OutcomeOkRow : Prop :=
  ∀ (h : Header) (s : State), h.wf = true → s.phase ≠ .busy →
    (12 ≤ s.inLen → s.headerHeld →
      ∃ t, exec (.decodeOk h) s = .next t ∧ t.resultOk h (s.inLen - 12)) ∧
    (s.inLen < 12 → ∃ t, exec (.decodeOk h) s = .next t ∧ t.resultTruncated s.inLen) ∧
    (12 ≤ s.inLen → ¬ s.headerHeld → exec (.decodeOk h) s = .refused .bufferUnreadable)

/-- The seven rows DECODE.MALFORMED complete with payload `(z, 25)` (60_exceptions.md R174, R175) in
every state that is not BUSY and has at least 12 bytes, the first 12 readable; with fewer the length
check goes first (R177; logs 14, 19). A buffer whose bytes 0 to 11 are not all readable is refused there
(93_implementation_defined.md U7; log 31). -/
def Obligations.OutcomeMalformedRows : Prop :=
  ∀ s : State, s.phase ≠ .busy →
    (12 ≤ s.inLen → s.headerHeld →
      (∃ t, exec .decodeMalformed1 s = .next t ∧ t.resultMalformed 1) ∧
      (∃ t, exec .decodeMalformed2 s = .next t ∧ t.resultMalformed 2) ∧
      (∃ t, exec .decodeMalformed3 s = .next t ∧ t.resultMalformed 3) ∧
      (∃ t, exec .decodeMalformed4 s = .next t ∧ t.resultMalformed 4) ∧
      (∃ t, exec .decodeMalformed5 s = .next t ∧ t.resultMalformed 5) ∧
      (∃ t, exec .decodeMalformed6 s = .next t ∧ t.resultMalformed 6) ∧
      (∃ t, exec .decodeMalformed7 s = .next t ∧ t.resultMalformed 7)) ∧
    (∀ i ∈ [Instr.decodeMalformed1, .decodeMalformed2, .decodeMalformed3, .decodeMalformed4,
        .decodeMalformed5, .decodeMalformed6, .decodeMalformed7],
      (s.inLen < 12 → ∃ t, exec i s = .next t ∧ t.resultTruncated s.inLen) ∧
      (12 ≤ s.inLen → ¬ s.headerHeld → exec i s = .refused .bufferUnreadable))

/-- The twelve rows DECODE.TRUNCATED complete with payload `(96, 8 * L)` (42_decode_transaction.md R141,
60_exceptions.md R173) in every state that is not BUSY and whose buffer a START accepts (logs 14, 19). A
buffer of 12 bytes or more whose bytes 0 to 11 are not all readable is refused
(93_implementation_defined.md U7; log 31). -/
def Obligations.OutcomeTruncatedRows : Prop :=
  ∀ s : State, s.phase ≠ .busy →
    (s.supplied →
      (∃ t, exec .decodeTruncatedL0 s = .next t ∧ t.resultTruncated 0) ∧
      (∃ t, exec .decodeTruncatedL1 s = .next t ∧ t.resultTruncated 1) ∧
      (∃ t, exec .decodeTruncatedL2 s = .next t ∧ t.resultTruncated 2) ∧
      (∃ t, exec .decodeTruncatedL3 s = .next t ∧ t.resultTruncated 3) ∧
      (∃ t, exec .decodeTruncatedL4 s = .next t ∧ t.resultTruncated 4) ∧
      (∃ t, exec .decodeTruncatedL5 s = .next t ∧ t.resultTruncated 5) ∧
      (∃ t, exec .decodeTruncatedL6 s = .next t ∧ t.resultTruncated 6) ∧
      (∃ t, exec .decodeTruncatedL7 s = .next t ∧ t.resultTruncated 7) ∧
      (∃ t, exec .decodeTruncatedL8 s = .next t ∧ t.resultTruncated 8) ∧
      (∃ t, exec .decodeTruncatedL9 s = .next t ∧ t.resultTruncated 9) ∧
      (∃ t, exec .decodeTruncatedL10 s = .next t ∧ t.resultTruncated 10) ∧
      (∃ t, exec .decodeTruncatedL11 s = .next t ∧ t.resultTruncated 11)) ∧
    (¬ s.supplied → ∀ i ∈ [Instr.decodeTruncatedL0, .decodeTruncatedL1, .decodeTruncatedL2,
        .decodeTruncatedL3, .decodeTruncatedL4, .decodeTruncatedL5, .decodeTruncatedL6,
        .decodeTruncatedL7, .decodeTruncatedL8, .decodeTruncatedL9, .decodeTruncatedL10,
        .decodeTruncatedL11], exec i s = .refused .bufferUnreadable)

/-- Each failure exactly when its cause is there, `Truncated` before `MalformedHeader` (60_exceptions.md
R172, R174, R177; 30_encoding.md R81). -/
def Obligations.OutcomesExactly : Prop :=
  ∀ s t : State, exec .decode s = .next t →
    t.phase = .done ∧
    (t.status = .truncated ↔ s.inLen < 12) ∧
    (t.status = .malformed ↔ 12 ≤ s.inLen ∧ zoneOf s.byte ≠ 0) ∧
    (t.status = .ok ↔ 12 ≤ s.inLen ∧ zoneOf s.byte = 0)

/-- A transaction reads no byte, bytes 0 to 3, or bytes 0 to 11, by its outcome, in ascending order and
never past `in_len` (20_memory.md R51, R57, R59). The trace is the model's own (log 10). -/
def Obligations.BytesReadByOutcome : Prop :=
  ∀ s t : State, exec .decode s = .next t →
    (t.status = .truncated → t.readTrace = []) ∧
    (t.status = .malformed → t.readTrace = [3, 2, 1, 0]) ∧
    (t.status = .ok → t.readTrace = [11, 10, 9, 8, 7, 6, 5, 4, 3, 2, 1, 0]) ∧
    ∀ a ∈ t.readTrace, a < s.inLen

/-- START, on a buffer it accepts, sets the cursor, the status and every result register before any other
step (10_state.md R41); and of two machines whose buffers agree below one and the same `in_len`, whatever
came before, DECODE leaves the same phase, status, cursor and result registers (R41). That START leaves
no value in an internal register, and that the two machines agree on these too, is read from R31
(DEDUCED, log 19). -/
def Obligations.NothingSurvives : Prop :=
  ∀ s s' : State, s.phase ≠ .busy → s'.phase ≠ .busy → s'.inLen = s.inLen →
    (∀ a, a < s.inLen → Memory.get s'.buf a = Memory.get s.buf a) →
    (s.supplied → ∃ t, exec .start s = .next t ∧ t.cur = 0 ∧ t.status = .none ∧ t.noHeader ∧ t.noRemainder ∧
      t.noTruncated ∧ t.noMalformed ∧ t.noInternal) ∧
    (∀ t, exec .decode s = .next t →
      ∃ t', exec .decode s' = .next t' ∧ t.sameOutcome t' ∧ t'.remLen = t.remLen)

/-- R153: below 12 bytes the result depends on `in_len` alone; from 12 bytes on, the header and the failure
depend on bytes 0 to 11 alone, whatever the two lengths and tails are, and the choice between OK and
MalformedHeader on the reserved zone alone; `rem_len` depends on `in_len` alone. That the two runs agree on
the internal registers too, which hold nothing after DECODE, is read from 10_state.md R31 (DEDUCED, log 19). -/
def Obligations.TailIrrelevant : Prop :=
  ∀ s s' t : State, s.phase ≠ .busy → s'.phase ≠ .busy → exec .decode s = .next t →
    (s.inLen < 12 → s'.inLen = s.inLen →
      ∃ t', exec .decode s' = .next t' ∧ t.sameOutcome t' ∧ t'.remLen = t.remLen) ∧
    (12 ≤ s.inLen → 12 ≤ s'.inLen → (∀ a, a < 12 → Memory.get s'.buf a = Memory.get s.buf a) →
      ∃ t', exec .decode s' = .next t' ∧ t.sameOutcome t' ∧
        (t.status = .ok → t.remLen = some (s.inLen - 12) ∧ t'.remLen = some (s'.inLen - 12))) ∧
    (12 ≤ s.inLen → 12 ≤ s'.inLen → zoneOf s'.byte = zoneOf s.byte →
      ∀ t', exec .decode s' = .next t' → t'.status = t.status)

/-- R162: the round trip, with any tail, and its converse. That the internal registers hold no value after
DECODE is read from 10_state.md R31 (DEDUCED, log 19). -/
def Obligations.RoundTrip : Prop :=
  (∀ (h : Header) (tail : List Byte) (s : State), h.wf = true → s.phase ≠ .busy →
    s.buf = Memory.fromBytes 0 (encodeHeader h ++ tail) → s.inLen = 12 + tail.length →
    ∃ t, exec .decode s = .next t ∧ t.resultOk h tail.length) ∧
  (∀ s : State, s.phase ≠ .busy → 12 ≤ s.inLen → s.headerHeld → zoneOf s.byte = 0 →
    ∃ t h, exec .decode s = .next t ∧ t.header = some h ∧
      encodeHeader h = (List.range 12).map s.byte)

/-! ## The host -/

/-- What the ports show (10_state.md R32, R36, R37, R38; 70_reset_and_hazards.md R210): outside DONE only `busy` and
`done`; in DONE the registers `status` entitles the host to, with the result's values. -/
def Obligations.PortsShowResults : Prop :=
  ∀ s : State,
    (portValue .busy s = some (.flag (decide (s.phase = .busy))) ∧
      portValue .done s = some (.flag (decide (s.phase = .done)))) ∧
    (s.phase ≠ .done → ∀ p, p ≠ .busy → p ≠ .done → portValue p s = none) ∧
    (∀ h n, s.resultOk h n →
      portValue .status s = some (.status .ok) ∧ portValue .id s = some (.num h.id.toNat) ∧
      portValue .qr s = some (.flag h.qr) ∧
      portValue .opcodeRaw s = some (.num (unmapOpcode h.opcode).toNat) ∧
      portValue .opcodeTag s = some (.opcodeTag h.opcode.tag) ∧
      portValue .aa s = some (.flag h.aa) ∧ portValue .tc s = some (.flag h.tc) ∧
      portValue .rd s = some (.flag h.rd) ∧ portValue .ra s = some (.flag h.ra) ∧
      portValue .rcodeRaw s = some (.num (unmapRcode h.rcode).toNat) ∧
      portValue .rcodeTag s = some (.rcodeTag h.rcode.tag) ∧
      portValue .qdcount s = some (.num h.qdcount.toNat) ∧
      portValue .ancount s = some (.num h.ancount.toNat) ∧
      portValue .nscount s = some (.num h.nscount.toNat) ∧
      portValue .arcount s = some (.num h.arcount.toNat) ∧
      portValue .remOff s = some (.num 12) ∧ portValue .remLen s = some (.num n) ∧
      ∀ p ∈ [Port.errBitsRequired, .errBitsAvailable, .errPattern, .errBitOffset],
        portValue p s = none) ∧
    (∀ n, s.resultTruncated n →
      portValue .status s = some (.status .truncated) ∧
      portValue .errBitsRequired s = some (.num 96) ∧
      portValue .errBitsAvailable s = some (.num (8 * n)) ∧
      ∀ p, p ≠ .busy → p ≠ .done → p ≠ .status → p ≠ .errBitsRequired →
        p ≠ .errBitsAvailable → portValue p s = none) ∧
    (∀ z, s.resultMalformed z →
      portValue .status s = some (.status .malformed) ∧
      portValue .errPattern s = some (.num z.toNat) ∧
      portValue .errBitOffset s = some (.num 25) ∧
      ∀ p, p ≠ .busy → p ≠ .done → p ≠ .status → p ≠ .errPattern → p ≠ .errBitOffset →
        portValue p s = none)

/-- A host read gives the port's value and changes nothing of the block (42_decode_transaction.md R148); of
a port that shows none it is a fault (10_state.md R36). The turns, `hostData` and the counter of free values
are the model's own (logs 1, 13). -/
def Obligations.HostReads : Prop :=
  ∀ (s : State) (p : Port) (rest : List Turn), s.agenda = .host (.read p) :: rest →
    (∀ v, portValue p s = some v → step s = .next { s with
      hostData := some v, agenda := rest, freeCount := s.freeCount + 1 }) ∧
    (portValue p s = none → step s = .fault (.readOfNone p))

/-- While BUSY the host may write bytes from offset 12 on and nothing else of the input (60_exceptions.md
R188, 70_reset_and_hazards.md R207): a write of another value to bytes 0 to 11, another length, and a whole
new buffer that differs in either are refused; a move that changes neither is taken (log 17); outside BUSY
it may do all of these. The turns and the counter of free values are the model's own (logs 1, 13). No move
of these touches a register of the block, the internal ones included. -/
def Obligations.BufferStability : Prop :=
  ∀ (s : State) (rest : List Turn),
    (∀ a b, s.agenda = .host (.poke a b) :: rest →
      (s.phase = .busy → a < 12 → Memory.get s.buf a ≠ some b →
        step s = .refused .bufferChanged) ∧
      (s.phase ≠ .busy ∨ 12 ≤ a ∨ Memory.get s.buf a = some b →
        ∃ t, step s = .next t ∧ Memory.get t.buf a = some b ∧
          (∀ a', a' ≠ a → Memory.get t.buf a' = Memory.get s.buf a') ∧ t.inLen = s.inLen ∧
          s.sameOutcome t ∧ t.remLen = s.remLen)) ∧
    (∀ n, s.agenda = .host (.setLen n) :: rest →
      (s.phase = .busy → n ≠ s.inLen → step s = .refused .bufferChanged) ∧
      (s.phase ≠ .busy ∨ n = s.inLen → step s = .next { s with
        inLen := n, agenda := rest, freeCount := s.freeCount + 1 })) ∧
    (∀ l, s.agenda = .host (.load l) :: rest →
      (s.phase = .busy → (l.length ≠ s.inLen ∨ ∃ a, a < 12 ∧ l[a]? ≠ Memory.get s.buf a) →
        step s = .refused .bufferChanged) ∧
      (s.phase ≠ .busy ∨ l.length = s.inLen ∧ (∀ a, a < 12 → l[a]? = Memory.get s.buf a) →
        ∃ t, step s = .next t ∧ t.inLen = l.length ∧ (∀ a, Memory.get t.buf a = l[a]?) ∧
          s.sameOutcome t ∧ t.remLen = s.remLen))

/-! ## Frames and invariants -/

/-- No instruction writes memory, whatever instruction it is (20_memory.md R55): the buffer and every byte
of it stay, and so does `in_len`. The model's own fields for the host stay too: its coming turns and last
read (log 1) and the counter of free values (log 13). -/
def Obligations.NoInstructionWritesMemory : Prop :=
  ∀ (i : Instr) (s t : State), exec i s = .next t →
    s.sameHost t ∧ ∀ a, Memory.get t.buf a = Memory.get s.buf a

/-- What an instruction returns goes to the model's own field `ret` (log 9), and only the primitives and
functions run alone return anything; these write no result register, no phase and no status, and only the
primitives move the cursor and `acc`. The trace of reads is the model's own too (log 10), and a primitive
runs alone in every phase (log 15). -/
def Obligations.PrimitivesAndFunctionsFrame : Prop :=
  ∀ (i : Instr) (s t : State), exec i s = .next t →
    (i ∈ [Instr.read1, .readn1, .readn3, .readn4, .readn16] →
      t = { s with ret := t.ret, cur := t.cur, acc := t.acc, readTrace := t.readTrace }) ∧
    (i ∈ [Instr.mapOpcode0, .mapOpcode1, .mapOpcode2, .mapOpcode3, .mapOpcode4, .mapOpcode5,
        .mapOpcode6, .mapOpcode7, .mapOpcode8, .mapOpcode9, .mapOpcode10, .mapOpcode11,
        .mapOpcode12, .mapOpcode13, .mapOpcode14, .mapOpcode15, .mapRcode0, .mapRcode1, .mapRcode2,
        .mapRcode3, .mapRcode4, .mapRcode5, .mapRcode6, .mapRcode7, .mapRcode8, .mapRcode9,
        .mapRcode10, .mapRcode11, .mapRcode12, .mapRcode13, .mapRcode14, .mapRcode15] →
      t = { s with ret := t.ret }) ∧
    (i ∉ [Instr.read1, .readn1, .readn3, .readn4, .readn16, .mapOpcode0, .mapOpcode1, .mapOpcode2,
        .mapOpcode3, .mapOpcode4, .mapOpcode5, .mapOpcode6, .mapOpcode7, .mapOpcode8, .mapOpcode9,
        .mapOpcode10, .mapOpcode11, .mapOpcode12, .mapOpcode13, .mapOpcode14, .mapOpcode15,
        .mapRcode0, .mapRcode1, .mapRcode2, .mapRcode3, .mapRcode4, .mapRcode5, .mapRcode6,
        .mapRcode7, .mapRcode8, .mapRcode9, .mapRcode10, .mapRcode11, .mapRcode12, .mapRcode13,
        .mapRcode14, .mapRcode15] → (∀ h, i ≠ .encode h) → t.ret = s.ret)

/-- The codes of `phase` and `status`, the outputs `busy` and `done`, and who writes the two registers
(10_state.md R32, R33): START and reset, ASSEMBLE, CHK.LEN exactly when the buffer is short, RD.Z exactly
when the bits it reads are not zero (wherever the cursor does not run out), a whole transaction, and nobody
else; the host writes neither. In the runs within the contract `status` is never NONE in DONE, and NONE
in IDLE and BUSY. The model's own in it: a step run alone writes them in every phase (log 15), an outcome
row is a whole transaction (log 14), and which runs are within the contract (logs 2, 15). -/
def Obligations.PhaseAndStatusWrites : Prop :=
  (Phase.idle.code = 0 ∧ Phase.busy.code = 1 ∧ Phase.done.code = 2) ∧
  (Status.none.code = 0 ∧ Status.ok.code = 1 ∧ Status.truncated.code = 2 ∧
    Status.malformed.code = 3) ∧
  (∀ s : State, (s.busy = true ↔ s.phase = .busy) ∧ (s.done = true ↔ s.phase = .done)) ∧
  (∀ (i : Instr) (s t : State), exec i s = .next t →
    (i = .start → s.phase ≠ .busy ∧ t.phase = .busy ∧ t.status = .none) ∧
    (i = .assemble → t.phase = .done ∧ t.status = .ok) ∧
    (i = .chkLen → (s.inLen < 12 → t.phase = .done ∧ t.status = .truncated) ∧
      (12 ≤ s.inLen → t.phase = s.phase ∧ t.status = s.status)) ∧
    (i = .rdZ → (t.phase = .done ∧ t.status = .malformed ∨
        t.phase = s.phase ∧ t.status = s.status) ∧
      (s.cur.toNat + 3 ≤ 127 →
        (wbits s.byte s.cur.toNat 3 ≠ 0 → t.phase = .done ∧ t.status = .malformed) ∧
        (wbits s.byte s.cur.toNat 3 = 0 → t.phase = s.phase ∧ t.status = s.status))) ∧
    (i ∈ [Instr.decode, .decodeMalformed1, .decodeMalformed2, .decodeMalformed3, .decodeMalformed4,
        .decodeMalformed5, .decodeMalformed6, .decodeMalformed7, .decodeTruncatedL0,
        .decodeTruncatedL1, .decodeTruncatedL2, .decodeTruncatedL3, .decodeTruncatedL4,
        .decodeTruncatedL5, .decodeTruncatedL6, .decodeTruncatedL7, .decodeTruncatedL8,
        .decodeTruncatedL9, .decodeTruncatedL10, .decodeTruncatedL11] ∨ (∃ h, i = .decodeOk h) →
      s.phase ≠ .busy ∧ t.phase = .done ∧ t.status ≠ .none) ∧
    (i ∉ [Instr.start, .assemble, .chkLen, .rdZ, .decode, .decodeMalformed1, .decodeMalformed2,
        .decodeMalformed3, .decodeMalformed4, .decodeMalformed5, .decodeMalformed6,
        .decodeMalformed7, .decodeTruncatedL0, .decodeTruncatedL1, .decodeTruncatedL2,
        .decodeTruncatedL3, .decodeTruncatedL4, .decodeTruncatedL5, .decodeTruncatedL6,
        .decodeTruncatedL7, .decodeTruncatedL8, .decodeTruncatedL9, .decodeTruncatedL10,
        .decodeTruncatedL11] → (∀ h, i ≠ .decodeOk h) →
      t.phase = s.phase ∧ t.status = s.status)) ∧
  (∀ (m : HostMove) (s t : State), hostMove m s = .next t →
    (m = .start → s.phase ≠ .busy ∧ t.phase = .busy ∧ t.status = .none) ∧
    (m = .rst → t.phase = .idle ∧ t.status = .none) ∧
    (m ≠ .start → m ≠ .rst → t.phase = s.phase ∧ t.status = s.status)) ∧
  (∀ s : State, Inv s → (s.phase = .done ↔ s.status ≠ .none))

/-- Equal memories are equal data: two canonical memories that read alike are the same list. The form is the
model's choice (log 7). -/
def Obligations.MemoryExtensional : Prop :=
  ∀ m m' : Memory, Memory.wf m = true → Memory.wf m' = true →
    (∀ a, Memory.get m a = Memory.get m' a) → m = m'

/-- Every step, whatever its turn, keeps the memory's canonical form. The form is the model's choice (log
7). -/
def Obligations.StepKeepsCanonicalMemory : Prop :=
  ∀ s t : State, Memory.wf s.buf = true → step s = .next t → Memory.wf t.buf = true

/-- Every step keeps the invariant of runs within the contract: the canonical buffer, the bytes read are
those the cursor has reached, in BUSY exactly the fields behind the cursor hold the buffer's values, in DONE
the registers of the result's status and no others hold values. That the internal registers hold no value in
IDLE and DONE, and in BUSY only what the steps so far have written, is read from 10_state.md R31 (DEDUCED,
log 19). The model's own in it: the memory's form (log 7), `lenOk` (log 8), the trace of reads (log 10), and
which runs are within the contract (logs 2, 15). -/
def Obligations.StepKeepsInv : Prop :=
  ∀ s t : State, Inv s → step s = .next t → Inv t

/-- From the invariant, a decoder turn in BUSY always has a step (what START asked of the buffer still
holds, 60_exceptions.md R188), the cursor never goes back, and it stays within 0 to 96 (10_state.md R29,
70_reset_and_hazards.md R212). The model's own in it: the turns (log 1), the invariant's contract (logs
2, 15) and internal registers (log 19), and `lenOk` (log 8). -/
def Obligations.BusyAlwaysProgresses : Prop :=
  ∀ s : State, Inv s → s.phase = .busy → s.turn = .decoder →
    ∃ t, step s = .next t ∧ s.cur.toNat ≤ t.cur.toNat ∧ t.cur.toNat ≤ 96 ∧
      (t.phase = .busy → s.cur.toNat < t.cur.toNat ∨ s.lenOk = false ∧ t.lenOk = true)

/-- Instances share nothing (60_exceptions.md R187): after any interleaving each instance is where its own
steps alone have taken it. That the whole run ends where one instance stops is the model's choice (log 23). -/
def Obligations.InstancesIndependent : Prop :=
  ∀ (ks : List Nat) (fleet fleet' : List State), fleetRun ks fleet = .next fleet' →
    ∀ (k : Nat) (s : State), fleet[k]? = some s →
      ∃ t : State, fleet'[k]? = some t ∧ core.run (ks.count k) s = .next t
end

