-- ==== Sys2Proof/Laws/Memory.lean ====
section
/-! SUPPORT. The buffer space: reads after writes, and that every operation keeps the canonical form. -/

namespace Sys2Proof.Machine

@[simp] theorem Memory.get_nil (a : Nat) : Memory.get [] a = none := rfl

/-- In a canonical memory every later cell has a greater offset. -/
theorem Memory.wf_cons {c : Host.Cell} {m : Memory} (h : Memory.wf (c :: m) = true) :
    Memory.wf m = true ∧ ∀ d ∈ m, c.1 < d.1 := by
  induction m generalizing c with
  | nil => simp [Memory.wf]
  | cons d m ih =>
    have h' : c.1 < d.1 ∧ Memory.wf (d :: m) = true := by
      simpa [Memory.wf] using h
    refine ⟨h'.2, fun e he => ?_⟩
    rcases List.mem_cons.mp he with rfl | he
    · exact h'.1
    · exact lt_trans h'.1 ((ih h'.2).2 e he)

/-- A memory is canonical when its tail is and its head lies below every cell of the tail. -/
theorem Memory.wf_of_cons {c : Host.Cell} {m : Memory} (hm : Memory.wf m = true)
    (hc : ∀ d ∈ m, c.1 < d.1) : Memory.wf (c :: m) = true := by
  cases m with
  | nil => rfl
  | cons d m => simp [Memory.wf] at hm ⊢; exact ⟨hc d (by simp), hm⟩

theorem Memory.get_none_of_lt {m : Memory} {a : Nat} (h : ∀ d ∈ m, a < d.1) :
    Memory.get m a = none := by
  induction m with
  | nil => rfl
  | cons c m ih =>
    have hc : a ≠ c.1 := (h c (by simp)).ne
    obtain ⟨a', b⟩ := c
    simp only [Memory.get]
    rw [if_neg hc]
    exact ih fun d hd => h d (by simp [hd])

theorem Memory.get_set_same (m : Memory) (a : Nat) (b : Byte) :
    Memory.get (Memory.set m a b) a = some b := by
  induction m with
  | nil => simp [Memory.set, Memory.get]
  | cons c m ih =>
    obtain ⟨a', b'⟩ := c
    simp only [Memory.set]
    split
    · simp [Memory.get]
    · split
      · simp [Memory.get]
      · rename_i h1 h2
        simp only [Memory.get]
        rw [if_neg h2]
        exact ih

theorem Memory.get_set_other (m : Memory) {a a' : Nat} (b : Byte) (h : a' ≠ a) :
    Memory.get (Memory.set m a b) a' = Memory.get m a' := by
  induction m with
  | nil => simp [Memory.set, Memory.get, h]
  | cons c m ih =>
    obtain ⟨d, b'⟩ := c
    simp only [Memory.set]
    split
    · simp [Memory.get, h]
    · split
      · rename_i _ h2
        subst h2
        simp [Memory.get, h]
      · simp only [Memory.get]
        split
        · rfl
        · exact ih

theorem Memory.mem_set {m : Memory} {a : Nat} {b : Byte} {d : Host.Cell}
    (h : d ∈ Memory.set m a b) : d = (a, b) ∨ d ∈ m := by
  induction m with
  | nil => simpa [Memory.set] using h
  | cons c m ih =>
    obtain ⟨a', b'⟩ := c
    simp only [Memory.set] at h
    split at h
    · simpa using h
    · split at h
      · rcases List.mem_cons.mp h with h | h
        · exact .inl h
        · exact .inr (by simp [h])
      · rcases List.mem_cons.mp h with h | h
        · exact .inr (by simp [h])
        · rcases ih h with h | h
          · exact .inl h
          · exact .inr (by simp [h])

theorem Memory.wf_set {m : Memory} (a : Nat) (b : Byte) (h : Memory.wf m = true) :
    Memory.wf (Memory.set m a b) = true := by
  induction m with
  | nil => rfl
  | cons c m ih =>
    obtain ⟨a', b'⟩ := c
    have hc := Memory.wf_cons h
    simp only [Memory.set]
    split
    · rename_i hlt
      refine Memory.wf_of_cons h fun d hd => ?_
      rcases List.mem_cons.mp hd with rfl | hd
      · exact hlt
      · exact lt_trans hlt (hc.2 d hd)
    · split
      · rename_i _ heq
        subst heq
        exact Memory.wf_of_cons hc.1 hc.2
      · rename_i h1 h2
        refine Memory.wf_of_cons (ih hc.1) fun d hd => ?_
        rcases Memory.mem_set hd with rfl | hd
        · show a' < a
          omega
        · exact hc.2 d hd

theorem Memory.mem_fromBytes {n : Nat} {l : List Byte} {d : Host.Cell}
    (h : d ∈ Memory.fromBytes n l) : n ≤ d.1 := by
  induction l generalizing n with
  | nil => simp [Memory.fromBytes] at h
  | cons b l ih =>
    rcases List.mem_cons.mp h with rfl | h
    · exact le_refl _
    · exact Nat.le_of_succ_le (ih h)

theorem Memory.wf_fromBytes (n : Nat) (l : List Byte) :
    Memory.wf (Memory.fromBytes n l) = true := by
  induction l generalizing n with
  | nil => rfl
  | cons b l ih =>
    exact Memory.wf_of_cons (ih (n + 1)) fun d hd => Memory.mem_fromBytes hd

theorem Memory.get_fromBytes (n : Nat) (l : List Byte) (i : Nat) :
    Memory.get (Memory.fromBytes n l) (n + i) = l[i]? := by
  induction l generalizing n i with
  | nil => simp [Memory.fromBytes]
  | cons b l ih =>
    cases i with
    | zero => simp [Memory.fromBytes, Memory.get]
    | succ i =>
      have : n + (i + 1) ≠ n := by omega
      simp only [Memory.fromBytes, Memory.get, this, if_false, List.getElem?_cons_succ]
      rw [show n + (i + 1) = n + 1 + i by omega]
      exact ih (n + 1) i

end Sys2Proof.Machine
end

