-- ==== Sys2Proof/Laws/State.lean ====
section
/-! SUPPORT. One lemma per field per named update of the state, true by unfolding, for simp: no later
proof unfolds a record update. -/

namespace Sys2Proof.Machine

section
variable (s : State)
@[simp] theorem pop_id : (State.pop s).id = s.id := rfl
@[simp] theorem pop_qr : (State.pop s).qr = s.qr := rfl
@[simp] theorem pop_opcodeRaw : (State.pop s).opcodeRaw = s.opcodeRaw := rfl
@[simp] theorem pop_opcodeTag : (State.pop s).opcodeTag = s.opcodeTag := rfl
@[simp] theorem pop_aa : (State.pop s).aa = s.aa := rfl
@[simp] theorem pop_tc : (State.pop s).tc = s.tc := rfl
@[simp] theorem pop_rd : (State.pop s).rd = s.rd := rfl
@[simp] theorem pop_ra : (State.pop s).ra = s.ra := rfl
@[simp] theorem pop_rcodeRaw : (State.pop s).rcodeRaw = s.rcodeRaw := rfl
@[simp] theorem pop_rcodeTag : (State.pop s).rcodeTag = s.rcodeTag := rfl
@[simp] theorem pop_qdcount : (State.pop s).qdcount = s.qdcount := rfl
@[simp] theorem pop_ancount : (State.pop s).ancount = s.ancount := rfl
@[simp] theorem pop_nscount : (State.pop s).nscount = s.nscount := rfl
@[simp] theorem pop_arcount : (State.pop s).arcount = s.arcount := rfl
@[simp] theorem pop_remOff : (State.pop s).remOff = s.remOff := rfl
@[simp] theorem pop_remLen : (State.pop s).remLen = s.remLen := rfl
@[simp] theorem pop_errBitsRequired : (State.pop s).errBitsRequired = s.errBitsRequired := rfl
@[simp] theorem pop_errBitsAvailable : (State.pop s).errBitsAvailable = s.errBitsAvailable := rfl
@[simp] theorem pop_errPattern : (State.pop s).errPattern = s.errPattern := rfl
@[simp] theorem pop_errBitOffset : (State.pop s).errBitOffset = s.errBitOffset := rfl
@[simp] theorem pop_phase : (State.pop s).phase = s.phase := rfl
@[simp] theorem pop_status : (State.pop s).status = s.status := rfl
@[simp] theorem pop_cur : (State.pop s).cur = s.cur := rfl
@[simp] theorem pop_acc : (State.pop s).acc = s.acc := rfl
@[simp] theorem pop_z : (State.pop s).z = s.z := rfl
@[simp] theorem pop_buf : (State.pop s).buf = s.buf := rfl
@[simp] theorem pop_inLen : (State.pop s).inLen = s.inLen := rfl
@[simp] theorem pop_lenOk : (State.pop s).lenOk = s.lenOk := rfl
@[simp] theorem pop_readTrace : (State.pop s).readTrace = s.readTrace := rfl
@[simp] theorem pop_ret : (State.pop s).ret = s.ret := rfl
@[simp] theorem pop_agenda : (State.pop s).agenda = s.agenda.tail := rfl
@[simp] theorem pop_hostData : (State.pop s).hostData = s.hostData := rfl
@[simp] theorem pop_freeCount : (State.pop s).freeCount = s.freeCount + 1 := rfl
end

section
variable (s : State)
@[simp] theorem dropInternal_id : (dropInternal s).id = s.id := rfl
@[simp] theorem dropInternal_qr : (dropInternal s).qr = s.qr := rfl
@[simp] theorem dropInternal_opcodeRaw : (dropInternal s).opcodeRaw = s.opcodeRaw := rfl
@[simp] theorem dropInternal_opcodeTag : (dropInternal s).opcodeTag = s.opcodeTag := rfl
@[simp] theorem dropInternal_aa : (dropInternal s).aa = s.aa := rfl
@[simp] theorem dropInternal_tc : (dropInternal s).tc = s.tc := rfl
@[simp] theorem dropInternal_rd : (dropInternal s).rd = s.rd := rfl
@[simp] theorem dropInternal_ra : (dropInternal s).ra = s.ra := rfl
@[simp] theorem dropInternal_rcodeRaw : (dropInternal s).rcodeRaw = s.rcodeRaw := rfl
@[simp] theorem dropInternal_rcodeTag : (dropInternal s).rcodeTag = s.rcodeTag := rfl
@[simp] theorem dropInternal_qdcount : (dropInternal s).qdcount = s.qdcount := rfl
@[simp] theorem dropInternal_ancount : (dropInternal s).ancount = s.ancount := rfl
@[simp] theorem dropInternal_nscount : (dropInternal s).nscount = s.nscount := rfl
@[simp] theorem dropInternal_arcount : (dropInternal s).arcount = s.arcount := rfl
@[simp] theorem dropInternal_remOff : (dropInternal s).remOff = s.remOff := rfl
@[simp] theorem dropInternal_remLen : (dropInternal s).remLen = s.remLen := rfl
@[simp] theorem dropInternal_errBitsRequired : (dropInternal s).errBitsRequired = s.errBitsRequired := rfl
@[simp] theorem dropInternal_errBitsAvailable : (dropInternal s).errBitsAvailable = s.errBitsAvailable := rfl
@[simp] theorem dropInternal_errPattern : (dropInternal s).errPattern = s.errPattern := rfl
@[simp] theorem dropInternal_errBitOffset : (dropInternal s).errBitOffset = s.errBitOffset := rfl
@[simp] theorem dropInternal_phase : (dropInternal s).phase = s.phase := rfl
@[simp] theorem dropInternal_status : (dropInternal s).status = s.status := rfl
@[simp] theorem dropInternal_cur : (dropInternal s).cur = s.cur := rfl
@[simp] theorem dropInternal_acc : (dropInternal s).acc = none := rfl
@[simp] theorem dropInternal_z : (dropInternal s).z = none := rfl
@[simp] theorem dropInternal_buf : (dropInternal s).buf = s.buf := rfl
@[simp] theorem dropInternal_inLen : (dropInternal s).inLen = s.inLen := rfl
@[simp] theorem dropInternal_lenOk : (dropInternal s).lenOk = s.lenOk := rfl
@[simp] theorem dropInternal_readTrace : (dropInternal s).readTrace = s.readTrace := rfl
@[simp] theorem dropInternal_ret : (dropInternal s).ret = s.ret := rfl
@[simp] theorem dropInternal_agenda : (dropInternal s).agenda = s.agenda := rfl
@[simp] theorem dropInternal_hostData : (dropInternal s).hostData = s.hostData := rfl
@[simp] theorem dropInternal_freeCount : (dropInternal s).freeCount = s.freeCount := rfl
end

section
variable (s : State)
@[simp] theorem beginTransaction_id : (beginTransaction s).id = none := rfl
@[simp] theorem beginTransaction_qr : (beginTransaction s).qr = none := rfl
@[simp] theorem beginTransaction_opcodeRaw : (beginTransaction s).opcodeRaw = none := rfl
@[simp] theorem beginTransaction_opcodeTag : (beginTransaction s).opcodeTag = none := rfl
@[simp] theorem beginTransaction_aa : (beginTransaction s).aa = none := rfl
@[simp] theorem beginTransaction_tc : (beginTransaction s).tc = none := rfl
@[simp] theorem beginTransaction_rd : (beginTransaction s).rd = none := rfl
@[simp] theorem beginTransaction_ra : (beginTransaction s).ra = none := rfl
@[simp] theorem beginTransaction_rcodeRaw : (beginTransaction s).rcodeRaw = none := rfl
@[simp] theorem beginTransaction_rcodeTag : (beginTransaction s).rcodeTag = none := rfl
@[simp] theorem beginTransaction_qdcount : (beginTransaction s).qdcount = none := rfl
@[simp] theorem beginTransaction_ancount : (beginTransaction s).ancount = none := rfl
@[simp] theorem beginTransaction_nscount : (beginTransaction s).nscount = none := rfl
@[simp] theorem beginTransaction_arcount : (beginTransaction s).arcount = none := rfl
@[simp] theorem beginTransaction_remOff : (beginTransaction s).remOff = none := rfl
@[simp] theorem beginTransaction_remLen : (beginTransaction s).remLen = none := rfl
@[simp] theorem beginTransaction_errBitsRequired : (beginTransaction s).errBitsRequired = none := rfl
@[simp] theorem beginTransaction_errBitsAvailable : (beginTransaction s).errBitsAvailable = none := rfl
@[simp] theorem beginTransaction_errPattern : (beginTransaction s).errPattern = none := rfl
@[simp] theorem beginTransaction_errBitOffset : (beginTransaction s).errBitOffset = none := rfl
@[simp] theorem beginTransaction_phase : (beginTransaction s).phase = .busy := rfl
@[simp] theorem beginTransaction_status : (beginTransaction s).status = .none := rfl
@[simp] theorem beginTransaction_cur : (beginTransaction s).cur = 0 := rfl
@[simp] theorem beginTransaction_acc : (beginTransaction s).acc = none := rfl
@[simp] theorem beginTransaction_z : (beginTransaction s).z = none := rfl
@[simp] theorem beginTransaction_buf : (beginTransaction s).buf = s.buf := rfl
@[simp] theorem beginTransaction_inLen : (beginTransaction s).inLen = s.inLen := rfl
@[simp] theorem beginTransaction_lenOk : (beginTransaction s).lenOk = false := rfl
@[simp] theorem beginTransaction_readTrace : (beginTransaction s).readTrace = [] := rfl
@[simp] theorem beginTransaction_ret : (beginTransaction s).ret = s.ret := rfl
@[simp] theorem beginTransaction_agenda : (beginTransaction s).agenda = s.agenda := rfl
@[simp] theorem beginTransaction_hostData : (beginTransaction s).hostData = s.hostData := rfl
@[simp] theorem beginTransaction_freeCount : (beginTransaction s).freeCount = s.freeCount := rfl
end

section
variable (s : State)
@[simp] theorem withdrawHeader_id : (withdrawHeader s).id = none := rfl
@[simp] theorem withdrawHeader_qr : (withdrawHeader s).qr = none := rfl
@[simp] theorem withdrawHeader_opcodeRaw : (withdrawHeader s).opcodeRaw = none := rfl
@[simp] theorem withdrawHeader_opcodeTag : (withdrawHeader s).opcodeTag = none := rfl
@[simp] theorem withdrawHeader_aa : (withdrawHeader s).aa = none := rfl
@[simp] theorem withdrawHeader_tc : (withdrawHeader s).tc = none := rfl
@[simp] theorem withdrawHeader_rd : (withdrawHeader s).rd = none := rfl
@[simp] theorem withdrawHeader_ra : (withdrawHeader s).ra = none := rfl
@[simp] theorem withdrawHeader_rcodeRaw : (withdrawHeader s).rcodeRaw = none := rfl
@[simp] theorem withdrawHeader_rcodeTag : (withdrawHeader s).rcodeTag = none := rfl
@[simp] theorem withdrawHeader_qdcount : (withdrawHeader s).qdcount = none := rfl
@[simp] theorem withdrawHeader_ancount : (withdrawHeader s).ancount = none := rfl
@[simp] theorem withdrawHeader_nscount : (withdrawHeader s).nscount = none := rfl
@[simp] theorem withdrawHeader_arcount : (withdrawHeader s).arcount = none := rfl
@[simp] theorem withdrawHeader_remOff : (withdrawHeader s).remOff = s.remOff := rfl
@[simp] theorem withdrawHeader_remLen : (withdrawHeader s).remLen = s.remLen := rfl
@[simp] theorem withdrawHeader_errBitsRequired : (withdrawHeader s).errBitsRequired = s.errBitsRequired := rfl
@[simp] theorem withdrawHeader_errBitsAvailable : (withdrawHeader s).errBitsAvailable = s.errBitsAvailable := rfl
@[simp] theorem withdrawHeader_errPattern : (withdrawHeader s).errPattern = s.errPattern := rfl
@[simp] theorem withdrawHeader_errBitOffset : (withdrawHeader s).errBitOffset = s.errBitOffset := rfl
@[simp] theorem withdrawHeader_phase : (withdrawHeader s).phase = s.phase := rfl
@[simp] theorem withdrawHeader_status : (withdrawHeader s).status = s.status := rfl
@[simp] theorem withdrawHeader_cur : (withdrawHeader s).cur = s.cur := rfl
@[simp] theorem withdrawHeader_acc : (withdrawHeader s).acc = s.acc := rfl
@[simp] theorem withdrawHeader_z : (withdrawHeader s).z = s.z := rfl
@[simp] theorem withdrawHeader_buf : (withdrawHeader s).buf = s.buf := rfl
@[simp] theorem withdrawHeader_inLen : (withdrawHeader s).inLen = s.inLen := rfl
@[simp] theorem withdrawHeader_lenOk : (withdrawHeader s).lenOk = s.lenOk := rfl
@[simp] theorem withdrawHeader_readTrace : (withdrawHeader s).readTrace = s.readTrace := rfl
@[simp] theorem withdrawHeader_ret : (withdrawHeader s).ret = s.ret := rfl
@[simp] theorem withdrawHeader_agenda : (withdrawHeader s).agenda = s.agenda := rfl
@[simp] theorem withdrawHeader_hostData : (withdrawHeader s).hostData = s.hostData := rfl
@[simp] theorem withdrawHeader_freeCount : (withdrawHeader s).freeCount = s.freeCount := rfl
end

section
variable (s : State) (n : Nat)
@[simp] theorem raiseTruncated_id : (raiseTruncated n s).id = none := rfl
@[simp] theorem raiseTruncated_qr : (raiseTruncated n s).qr = none := rfl
@[simp] theorem raiseTruncated_opcodeRaw : (raiseTruncated n s).opcodeRaw = none := rfl
@[simp] theorem raiseTruncated_opcodeTag : (raiseTruncated n s).opcodeTag = none := rfl
@[simp] theorem raiseTruncated_aa : (raiseTruncated n s).aa = none := rfl
@[simp] theorem raiseTruncated_tc : (raiseTruncated n s).tc = none := rfl
@[simp] theorem raiseTruncated_rd : (raiseTruncated n s).rd = none := rfl
@[simp] theorem raiseTruncated_ra : (raiseTruncated n s).ra = none := rfl
@[simp] theorem raiseTruncated_rcodeRaw : (raiseTruncated n s).rcodeRaw = none := rfl
@[simp] theorem raiseTruncated_rcodeTag : (raiseTruncated n s).rcodeTag = none := rfl
@[simp] theorem raiseTruncated_qdcount : (raiseTruncated n s).qdcount = none := rfl
@[simp] theorem raiseTruncated_ancount : (raiseTruncated n s).ancount = none := rfl
@[simp] theorem raiseTruncated_nscount : (raiseTruncated n s).nscount = none := rfl
@[simp] theorem raiseTruncated_arcount : (raiseTruncated n s).arcount = none := rfl
@[simp] theorem raiseTruncated_remOff : (raiseTruncated n s).remOff = s.remOff := rfl
@[simp] theorem raiseTruncated_remLen : (raiseTruncated n s).remLen = s.remLen := rfl
@[simp] theorem raiseTruncated_errBitsRequired : (raiseTruncated n s).errBitsRequired = some 96 := rfl
@[simp] theorem raiseTruncated_errBitsAvailable : (raiseTruncated n s).errBitsAvailable = some (8 * n) := rfl
@[simp] theorem raiseTruncated_errPattern : (raiseTruncated n s).errPattern = s.errPattern := rfl
@[simp] theorem raiseTruncated_errBitOffset : (raiseTruncated n s).errBitOffset = s.errBitOffset := rfl
@[simp] theorem raiseTruncated_phase : (raiseTruncated n s).phase = .done := rfl
@[simp] theorem raiseTruncated_status : (raiseTruncated n s).status = .truncated := rfl
@[simp] theorem raiseTruncated_cur : (raiseTruncated n s).cur = s.cur := rfl
@[simp] theorem raiseTruncated_acc : (raiseTruncated n s).acc = none := rfl
@[simp] theorem raiseTruncated_z : (raiseTruncated n s).z = none := rfl
@[simp] theorem raiseTruncated_buf : (raiseTruncated n s).buf = s.buf := rfl
@[simp] theorem raiseTruncated_inLen : (raiseTruncated n s).inLen = s.inLen := rfl
@[simp] theorem raiseTruncated_lenOk : (raiseTruncated n s).lenOk = s.lenOk := rfl
@[simp] theorem raiseTruncated_readTrace : (raiseTruncated n s).readTrace = s.readTrace := rfl
@[simp] theorem raiseTruncated_ret : (raiseTruncated n s).ret = s.ret := rfl
@[simp] theorem raiseTruncated_agenda : (raiseTruncated n s).agenda = s.agenda := rfl
@[simp] theorem raiseTruncated_hostData : (raiseTruncated n s).hostData = s.hostData := rfl
@[simp] theorem raiseTruncated_freeCount : (raiseTruncated n s).freeCount = s.freeCount := rfl
end

section
variable (s : State) (p : BitVec 3)
@[simp] theorem raiseMalformed_id : (raiseMalformed p s).id = none := rfl
@[simp] theorem raiseMalformed_qr : (raiseMalformed p s).qr = none := rfl
@[simp] theorem raiseMalformed_opcodeRaw : (raiseMalformed p s).opcodeRaw = none := rfl
@[simp] theorem raiseMalformed_opcodeTag : (raiseMalformed p s).opcodeTag = none := rfl
@[simp] theorem raiseMalformed_aa : (raiseMalformed p s).aa = none := rfl
@[simp] theorem raiseMalformed_tc : (raiseMalformed p s).tc = none := rfl
@[simp] theorem raiseMalformed_rd : (raiseMalformed p s).rd = none := rfl
@[simp] theorem raiseMalformed_ra : (raiseMalformed p s).ra = none := rfl
@[simp] theorem raiseMalformed_rcodeRaw : (raiseMalformed p s).rcodeRaw = none := rfl
@[simp] theorem raiseMalformed_rcodeTag : (raiseMalformed p s).rcodeTag = none := rfl
@[simp] theorem raiseMalformed_qdcount : (raiseMalformed p s).qdcount = none := rfl
@[simp] theorem raiseMalformed_ancount : (raiseMalformed p s).ancount = none := rfl
@[simp] theorem raiseMalformed_nscount : (raiseMalformed p s).nscount = none := rfl
@[simp] theorem raiseMalformed_arcount : (raiseMalformed p s).arcount = none := rfl
@[simp] theorem raiseMalformed_remOff : (raiseMalformed p s).remOff = s.remOff := rfl
@[simp] theorem raiseMalformed_remLen : (raiseMalformed p s).remLen = s.remLen := rfl
@[simp] theorem raiseMalformed_errBitsRequired : (raiseMalformed p s).errBitsRequired = s.errBitsRequired := rfl
@[simp] theorem raiseMalformed_errBitsAvailable : (raiseMalformed p s).errBitsAvailable = s.errBitsAvailable := rfl
@[simp] theorem raiseMalformed_errPattern : (raiseMalformed p s).errPattern = some p := rfl
@[simp] theorem raiseMalformed_errBitOffset : (raiseMalformed p s).errBitOffset = some 25 := rfl
@[simp] theorem raiseMalformed_phase : (raiseMalformed p s).phase = .done := rfl
@[simp] theorem raiseMalformed_status : (raiseMalformed p s).status = .malformed := rfl
@[simp] theorem raiseMalformed_cur : (raiseMalformed p s).cur = s.cur := rfl
@[simp] theorem raiseMalformed_acc : (raiseMalformed p s).acc = none := rfl
@[simp] theorem raiseMalformed_z : (raiseMalformed p s).z = none := rfl
@[simp] theorem raiseMalformed_buf : (raiseMalformed p s).buf = s.buf := rfl
@[simp] theorem raiseMalformed_inLen : (raiseMalformed p s).inLen = s.inLen := rfl
@[simp] theorem raiseMalformed_lenOk : (raiseMalformed p s).lenOk = s.lenOk := rfl
@[simp] theorem raiseMalformed_readTrace : (raiseMalformed p s).readTrace = s.readTrace := rfl
@[simp] theorem raiseMalformed_ret : (raiseMalformed p s).ret = s.ret := rfl
@[simp] theorem raiseMalformed_agenda : (raiseMalformed p s).agenda = s.agenda := rfl
@[simp] theorem raiseMalformed_hostData : (raiseMalformed p s).hostData = s.hostData := rfl
@[simp] theorem raiseMalformed_freeCount : (raiseMalformed p s).freeCount = s.freeCount := rfl
end

section
variable (s : State)
@[simp] theorem presentResult_id : (presentResult s).id = s.id := rfl
@[simp] theorem presentResult_qr : (presentResult s).qr = s.qr := rfl
@[simp] theorem presentResult_opcodeRaw : (presentResult s).opcodeRaw = s.opcodeRaw := rfl
@[simp] theorem presentResult_opcodeTag : (presentResult s).opcodeTag = s.opcodeTag := rfl
@[simp] theorem presentResult_aa : (presentResult s).aa = s.aa := rfl
@[simp] theorem presentResult_tc : (presentResult s).tc = s.tc := rfl
@[simp] theorem presentResult_rd : (presentResult s).rd = s.rd := rfl
@[simp] theorem presentResult_ra : (presentResult s).ra = s.ra := rfl
@[simp] theorem presentResult_rcodeRaw : (presentResult s).rcodeRaw = s.rcodeRaw := rfl
@[simp] theorem presentResult_rcodeTag : (presentResult s).rcodeTag = s.rcodeTag := rfl
@[simp] theorem presentResult_qdcount : (presentResult s).qdcount = s.qdcount := rfl
@[simp] theorem presentResult_ancount : (presentResult s).ancount = s.ancount := rfl
@[simp] theorem presentResult_nscount : (presentResult s).nscount = s.nscount := rfl
@[simp] theorem presentResult_arcount : (presentResult s).arcount = s.arcount := rfl
@[simp] theorem presentResult_remOff : (presentResult s).remOff = some 12 := rfl
@[simp] theorem presentResult_remLen : (presentResult s).remLen = some (remainderLen s.inLen) := rfl
@[simp] theorem presentResult_errBitsRequired : (presentResult s).errBitsRequired = s.errBitsRequired := rfl
@[simp] theorem presentResult_errBitsAvailable : (presentResult s).errBitsAvailable = s.errBitsAvailable := rfl
@[simp] theorem presentResult_errPattern : (presentResult s).errPattern = s.errPattern := rfl
@[simp] theorem presentResult_errBitOffset : (presentResult s).errBitOffset = s.errBitOffset := rfl
@[simp] theorem presentResult_phase : (presentResult s).phase = .done := rfl
@[simp] theorem presentResult_status : (presentResult s).status = .ok := rfl
@[simp] theorem presentResult_cur : (presentResult s).cur = s.cur := rfl
@[simp] theorem presentResult_acc : (presentResult s).acc = none := rfl
@[simp] theorem presentResult_z : (presentResult s).z = none := rfl
@[simp] theorem presentResult_buf : (presentResult s).buf = s.buf := rfl
@[simp] theorem presentResult_inLen : (presentResult s).inLen = s.inLen := rfl
@[simp] theorem presentResult_lenOk : (presentResult s).lenOk = s.lenOk := rfl
@[simp] theorem presentResult_readTrace : (presentResult s).readTrace = s.readTrace := rfl
@[simp] theorem presentResult_ret : (presentResult s).ret = s.ret := rfl
@[simp] theorem presentResult_agenda : (presentResult s).agenda = s.agenda := rfl
@[simp] theorem presentResult_hostData : (presentResult s).hostData = s.hostData := rfl
@[simp] theorem presentResult_freeCount : (presentResult s).freeCount = s.freeCount := rfl
end

section
variable (s : State) (v : Ret)
@[simp] theorem returning_id : (returning v s).id = s.id := rfl
@[simp] theorem returning_qr : (returning v s).qr = s.qr := rfl
@[simp] theorem returning_opcodeRaw : (returning v s).opcodeRaw = s.opcodeRaw := rfl
@[simp] theorem returning_opcodeTag : (returning v s).opcodeTag = s.opcodeTag := rfl
@[simp] theorem returning_aa : (returning v s).aa = s.aa := rfl
@[simp] theorem returning_tc : (returning v s).tc = s.tc := rfl
@[simp] theorem returning_rd : (returning v s).rd = s.rd := rfl
@[simp] theorem returning_ra : (returning v s).ra = s.ra := rfl
@[simp] theorem returning_rcodeRaw : (returning v s).rcodeRaw = s.rcodeRaw := rfl
@[simp] theorem returning_rcodeTag : (returning v s).rcodeTag = s.rcodeTag := rfl
@[simp] theorem returning_qdcount : (returning v s).qdcount = s.qdcount := rfl
@[simp] theorem returning_ancount : (returning v s).ancount = s.ancount := rfl
@[simp] theorem returning_nscount : (returning v s).nscount = s.nscount := rfl
@[simp] theorem returning_arcount : (returning v s).arcount = s.arcount := rfl
@[simp] theorem returning_remOff : (returning v s).remOff = s.remOff := rfl
@[simp] theorem returning_remLen : (returning v s).remLen = s.remLen := rfl
@[simp] theorem returning_errBitsRequired : (returning v s).errBitsRequired = s.errBitsRequired := rfl
@[simp] theorem returning_errBitsAvailable : (returning v s).errBitsAvailable = s.errBitsAvailable := rfl
@[simp] theorem returning_errPattern : (returning v s).errPattern = s.errPattern := rfl
@[simp] theorem returning_errBitOffset : (returning v s).errBitOffset = s.errBitOffset := rfl
@[simp] theorem returning_phase : (returning v s).phase = s.phase := rfl
@[simp] theorem returning_status : (returning v s).status = s.status := rfl
@[simp] theorem returning_cur : (returning v s).cur = s.cur := rfl
@[simp] theorem returning_acc : (returning v s).acc = s.acc := rfl
@[simp] theorem returning_z : (returning v s).z = s.z := rfl
@[simp] theorem returning_buf : (returning v s).buf = s.buf := rfl
@[simp] theorem returning_inLen : (returning v s).inLen = s.inLen := rfl
@[simp] theorem returning_lenOk : (returning v s).lenOk = s.lenOk := rfl
@[simp] theorem returning_readTrace : (returning v s).readTrace = s.readTrace := rfl
@[simp] theorem returning_ret : (returning v s).ret = some v := rfl
@[simp] theorem returning_agenda : (returning v s).agenda = s.agenda := rfl
@[simp] theorem returning_hostData : (returning v s).hostData = s.hostData := rfl
@[simp] theorem returning_freeCount : (returning v s).freeCount = s.freeCount := rfl
end

section
variable (s : State)
@[simp] theorem hostReset_id : (hostReset s).id = none := rfl
@[simp] theorem hostReset_qr : (hostReset s).qr = none := rfl
@[simp] theorem hostReset_opcodeRaw : (hostReset s).opcodeRaw = none := rfl
@[simp] theorem hostReset_opcodeTag : (hostReset s).opcodeTag = none := rfl
@[simp] theorem hostReset_aa : (hostReset s).aa = none := rfl
@[simp] theorem hostReset_tc : (hostReset s).tc = none := rfl
@[simp] theorem hostReset_rd : (hostReset s).rd = none := rfl
@[simp] theorem hostReset_ra : (hostReset s).ra = none := rfl
@[simp] theorem hostReset_rcodeRaw : (hostReset s).rcodeRaw = none := rfl
@[simp] theorem hostReset_rcodeTag : (hostReset s).rcodeTag = none := rfl
@[simp] theorem hostReset_qdcount : (hostReset s).qdcount = none := rfl
@[simp] theorem hostReset_ancount : (hostReset s).ancount = none := rfl
@[simp] theorem hostReset_nscount : (hostReset s).nscount = none := rfl
@[simp] theorem hostReset_arcount : (hostReset s).arcount = none := rfl
@[simp] theorem hostReset_remOff : (hostReset s).remOff = none := rfl
@[simp] theorem hostReset_remLen : (hostReset s).remLen = none := rfl
@[simp] theorem hostReset_errBitsRequired : (hostReset s).errBitsRequired = none := rfl
@[simp] theorem hostReset_errBitsAvailable : (hostReset s).errBitsAvailable = none := rfl
@[simp] theorem hostReset_errPattern : (hostReset s).errPattern = none := rfl
@[simp] theorem hostReset_errBitOffset : (hostReset s).errBitOffset = none := rfl
@[simp] theorem hostReset_phase : (hostReset s).phase = .idle := rfl
@[simp] theorem hostReset_status : (hostReset s).status = .none := rfl
@[simp] theorem hostReset_cur : (hostReset s).cur = 0 := rfl
@[simp] theorem hostReset_acc : (hostReset s).acc = none := rfl
@[simp] theorem hostReset_z : (hostReset s).z = none := rfl
@[simp] theorem hostReset_buf : (hostReset s).buf = s.buf := rfl
@[simp] theorem hostReset_inLen : (hostReset s).inLen = s.inLen := rfl
@[simp] theorem hostReset_lenOk : (hostReset s).lenOk = false := rfl
@[simp] theorem hostReset_readTrace : (hostReset s).readTrace = [] := rfl
@[simp] theorem hostReset_ret : (hostReset s).ret = none := rfl
@[simp] theorem hostReset_agenda : (hostReset s).agenda = s.agenda := rfl
@[simp] theorem hostReset_hostData : (hostReset s).hostData = s.hostData := rfl
@[simp] theorem hostReset_freeCount : (hostReset s).freeCount = s.freeCount := rfl
end

section
variable (s : State) (n : Nat)
@[simp] theorem afterRead_id : (s.afterRead n).id = s.id := rfl
@[simp] theorem afterRead_qr : (s.afterRead n).qr = s.qr := rfl
@[simp] theorem afterRead_opcodeRaw : (s.afterRead n).opcodeRaw = s.opcodeRaw := rfl
@[simp] theorem afterRead_opcodeTag : (s.afterRead n).opcodeTag = s.opcodeTag := rfl
@[simp] theorem afterRead_aa : (s.afterRead n).aa = s.aa := rfl
@[simp] theorem afterRead_tc : (s.afterRead n).tc = s.tc := rfl
@[simp] theorem afterRead_rd : (s.afterRead n).rd = s.rd := rfl
@[simp] theorem afterRead_ra : (s.afterRead n).ra = s.ra := rfl
@[simp] theorem afterRead_rcodeRaw : (s.afterRead n).rcodeRaw = s.rcodeRaw := rfl
@[simp] theorem afterRead_rcodeTag : (s.afterRead n).rcodeTag = s.rcodeTag := rfl
@[simp] theorem afterRead_qdcount : (s.afterRead n).qdcount = s.qdcount := rfl
@[simp] theorem afterRead_ancount : (s.afterRead n).ancount = s.ancount := rfl
@[simp] theorem afterRead_nscount : (s.afterRead n).nscount = s.nscount := rfl
@[simp] theorem afterRead_arcount : (s.afterRead n).arcount = s.arcount := rfl
@[simp] theorem afterRead_remOff : (s.afterRead n).remOff = s.remOff := rfl
@[simp] theorem afterRead_remLen : (s.afterRead n).remLen = s.remLen := rfl
@[simp] theorem afterRead_errBitsRequired : (s.afterRead n).errBitsRequired = s.errBitsRequired := rfl
@[simp] theorem afterRead_errBitsAvailable : (s.afterRead n).errBitsAvailable = s.errBitsAvailable := rfl
@[simp] theorem afterRead_errPattern : (s.afterRead n).errPattern = s.errPattern := rfl
@[simp] theorem afterRead_errBitOffset : (s.afterRead n).errBitOffset = s.errBitOffset := rfl
@[simp] theorem afterRead_phase : (s.afterRead n).phase = s.phase := rfl
@[simp] theorem afterRead_status : (s.afterRead n).status = s.status := rfl
@[simp] theorem afterRead_cur : (s.afterRead n).cur = BitVec.ofNat 7 (s.cur.toNat + n) := rfl
@[simp] theorem afterRead_acc : (s.afterRead n).acc = some (BitVec.ofNat 16 (wbits s.byte s.cur.toNat n)) := rfl
@[simp] theorem afterRead_z : (s.afterRead n).z = s.z := rfl
@[simp] theorem afterRead_buf : (s.afterRead n).buf = s.buf := rfl
@[simp] theorem afterRead_inLen : (s.afterRead n).inLen = s.inLen := rfl
@[simp] theorem afterRead_lenOk : (s.afterRead n).lenOk = s.lenOk := rfl
@[simp] theorem afterRead_readTrace : (s.afterRead n).readTrace = noteReads s.cur.toNat n s.readTrace := rfl
@[simp] theorem afterRead_ret : (s.afterRead n).ret = s.ret := rfl
@[simp] theorem afterRead_agenda : (s.afterRead n).agenda = s.agenda := rfl
@[simp] theorem afterRead_hostData : (s.afterRead n).hostData = s.hostData := rfl
@[simp] theorem afterRead_freeCount : (s.afterRead n).freeCount = s.freeCount := rfl
end

/-- The buffer as a function is unchanged by any update that keeps `buf`. -/
theorem byte_congr {s t : State} (h : t.buf = s.buf) : t.byte = s.byte := by
  funext a; simp [State.byte, h]

end Sys2Proof.Machine
end

