-- ==== Sys2Proof/Laws/Ops.lean ====
section
/-! SUPPORT. One lemma per shared operation that says what it can do: `andThen`, `memRead`, READ1, READN,
the closed form of READN, and the frame of a read. -/

namespace Sys2Proof.Machine

@[simp] theorem andThen_next {α β : Type} (a : α) (f : α → Out β) :
    andThen (.next a) f = f a := rfl
@[simp] theorem andThen_fault {α β : Type} (r : Fault) (f : α → Out β) :
    andThen (.fault r) f = .fault r := rfl
@[simp] theorem andThen_refused {α β : Type} (r : Refusal) (f : α → Out β) :
    andThen (.refused r) f = .refused r := rfl

/-- A chain answers next only through a next of its first part. -/
theorem andThen_eq_next {α β : Type} {x : Out α} {f : α → Out β} {b : β}
    (h : andThen x f = .next b) : ∃ a, x = .next a ∧ f a = .next b := by
  cases x with
  | next a => exact ⟨a, rfl, h⟩
  | fault r => cases h
  | refused r => cases h

theorem memRead_next {a : Nat} {s : State} {b : Byte} (hl : a < s.inLen)
    (hb : Memory.get s.buf a = some b) : memRead a s = .next b := by
  simp [memRead, hl, hb]

/-- All that `memRead` can do. -/
theorem memRead_cases (a : Nat) (s : State) :
    (a < s.inLen ∧ ∃ b, Memory.get s.buf a = some b ∧ memRead a s = .next b) ∨
    (a < s.inLen ∧ Memory.get s.buf a = none ∧ memRead a s = .refused .bufferUnreadable) ∨
    (s.inLen ≤ a ∧ memRead a s = .fault .readPastEnd) := by
  unfold memRead
  by_cases hl : a < s.inLen
  · cases hb : Memory.get s.buf a with
    | some b => exact .inl ⟨hl, b, rfl, by simp [hl]⟩
    | none => exact .inr (.inl ⟨hl, rfl, by simp [hl]⟩)
  · exact .inr (.inr ⟨Nat.le_of_not_lt hl, by simp [hl]⟩)

theorem byte_eq {s : State} {a : Nat} {b : Byte} (h : Memory.get s.buf a = some b) :
    s.byte a = b := by simp [State.byte, h]

/-- What a READ1 that answers next did. -/
theorem read1_next_inv {s t : State} {b : Bool} (h : read1 s = .next (b, t)) :
    byteIdx s.cur < s.inLen ∧ (Memory.get s.buf (byteIdx s.cur)).isSome = true ∧
    b = wbit (s.byte (byteIdx s.cur)) s.cur.toNat ∧
    t = { s with cur := advance s, readTrace := noteRead (byteIdx s.cur) s.readTrace } := by
  unfold read1 at h
  obtain ⟨v, hv, h⟩ := andThen_eq_next h
  rcases memRead_cases (byteIdx s.cur) s with ⟨hl, w, hw, e⟩ | ⟨_, _, e⟩ | ⟨_, e⟩
  · rw [e] at hv
    cases hv
    injection h with h
    injection h with h1 h2
    exact ⟨hl, by simp [hw], by rw [byte_eq hw]; exact h1.symm, h2.symm⟩
  · rw [e] at hv; cases hv
  · rw [e] at hv; cases hv

/-- Below 127 the cursor advances by one. -/
theorem advance_eq {s : State} (hc : s.cur.toNat < 127) : advance s = s.cur + 1 :=
  if_neg fun e => absurd (e ▸ hc) (by decide)

/-- READ1 where the bit exists, the byte is supplied and the cursor stays within 7 bits. -/
theorem read1_eq {s : State} (hc : s.cur.toNat < 127) (hl : s.cur.toNat < 8 * s.inLen)
    (hb : (Memory.get s.buf (s.cur.toNat / 8)).isSome = true) :
    read1 s = .next (wbit (s.byte (s.cur.toNat / 8)) s.cur.toNat,
      { s with cur := s.cur + 1, readTrace := noteRead (s.cur.toNat / 8) s.readTrace }) := by
  obtain ⟨b, hb⟩ := Option.isSome_iff_exists.mp hb
  have ha : s.cur.toNat / 8 < s.inLen := by omega
  simp [read1, byteIdx, memRead_next ha hb, byte_eq hb, advance_eq hc]

/-- Taking a bit in is doubling and adding, within 16 bits. -/
theorem accStep_eq (a : Half) (b : Bool) :
    accStep a b = BitVec.ofNat 16 (2 * a.toNat + b.toNat) := by
  apply BitVec.eq_of_toNat_eq
  have hb : b.toNat < 2 ^ 1 := by cases b <;> decide
  have e : a.toNat <<< 1 % 2 ^ 16 = (a.toNat % 2 ^ 15) <<< 1 := by
    simp only [Nat.shiftLeft_eq]; omega
  simp only [accStep, BitVec.toNat_or, BitVec.toNat_shiftLeft, BitVec.toNat_setWidth,
    BitVec.toNat_ofBool, BitVec.toNat_ofNat, e]
  rw [Nat.mod_eq_of_lt (a := b.toNat) (by omega), ← Nat.shiftLeft_add_eq_or_of_lt hb,
    Nat.shiftLeft_eq]
  omega

/-- The first bit of a field has the highest weight. -/
theorem wbits_head (buf : Nat → Byte) (c n : Nat) :
    wbits buf c (n + 1) = (wbit (buf (c / 8)) c).toNat * 2 ^ n + wbits buf (c + 1) n := by
  induction n with
  | zero => simp [wbits]
  | succ n ih =>
    rw [wbits, ih, wbits, show c + (n + 1) = c + 1 + n by omega, Nat.pow_succ]
    ring

theorem wbits_lt (buf : Nat → Byte) (c n : Nat) : wbits buf c n < 2 ^ n := by
  induction n with
  | zero => simp [wbits]
  | succ n ih =>
    have := Bool.toNat_lt (wbit (buf ((c + n) / 8)) (c + n))
    rw [wbits, Nat.pow_succ]
    omega

/-- A field read in two parts. -/
theorem wbits_add (buf : Nat → Byte) (c m n : Nat) :
    wbits buf c (m + n) = wbits buf c m * 2 ^ n + wbits buf (c + m) n := by
  induction n with
  | zero => simp [wbits]
  | succ n ih =>
    rw [← Nat.add_assoc, wbits, ih, wbits, Nat.pow_succ, show c + (m + n) = c + m + n by omega]
    ring

/-- The eight bits of a byte are its value. -/
theorem wbits_byte (buf : Nat → Byte) (a : Nat) : wbits buf (8 * a) 8 = (buf a).toNat := by
  have key : ∀ x : Byte, 2 * (2 * (2 * (2 * (2 * (2 * (2 * (2 * 0 + (x.getLsbD 7).toNat) +
      (x.getLsbD 6).toNat) + (x.getLsbD 5).toNat) + (x.getLsbD 4).toNat) + (x.getLsbD 3).toNat) +
      (x.getLsbD 2).toNat) + (x.getLsbD 1).toNat) + (x.getLsbD 0).toNat = x.toNat := by decide
  have e : ∀ i, i < 8 → (8 * a + i) / 8 = a ∧ (8 * a + i) % 8 = i := fun i hi => by omega
  simp only [wbits, wbit, (e 0 (by decide)).1, (e 1 (by decide)).1, (e 2 (by decide)).1,
    (e 3 (by decide)).1, (e 4 (by decide)).1, (e 5 (by decide)).1, (e 6 (by decide)).1,
    (e 7 (by decide)).1, (e 0 (by decide)).2, (e 1 (by decide)).2, (e 2 (by decide)).2,
    (e 3 (by decide)).2, (e 4 (by decide)).2, (e 5 (by decide)).2, (e 6 (by decide)).2,
    (e 7 (by decide)).2]
  exact key (buf a)

theorem cur_succ {s : State} (hc : s.cur.toNat < 127) : (s.cur + 1).toNat = s.cur.toNat + 1 := by
  simp [BitVec.toNat_add]; omega

/-- Taking in the next bit and then `n` more is taking in all `n + 1`, within 16 bits. -/
theorem accStep_wbits (a : Half) (b : Nat → Byte) (c n : Nat) :
    BitVec.ofNat 16 ((accStep a (wbit (b (c / 8)) c)).toNat * 2 ^ n + wbits b (c + 1) n) =
      BitVec.ofNat 16 (a.toNat * 2 ^ (n + 1) + wbits b c (n + 1)) := by
  rw [accStep_eq, wbits_head]
  apply BitVec.eq_of_toNat_eq
  simp only [BitVec.toNat_ofNat]
  rw [Nat.add_mod, Nat.mod_mul_mod, ← Nat.add_mod]
  congr 1
  ring

/-- The low `n` bits of an accumulator cleared before `n` bits were taken in are those bits. -/
theorem setWidth_wbits {n : Nat} (hn : n ≤ 16) (b : Nat → Byte) (c : Nat) :
    (BitVec.ofNat 16 ((0 : Half).toNat * 2 ^ n + wbits b c n)).setWidth n =
      BitVec.ofNat n (wbits b c n) := by
  apply BitVec.eq_of_toNat_eq
  have hlt := wbits_lt b c n
  have hp : 2 ^ n ≤ 2 ^ 16 := Nat.pow_le_pow_right (by decide) hn
  simp only [BitVec.toNat_setWidth, BitVec.toNat_ofNat, BitVec.ofNat_eq_ofNat, Nat.zero_mod,
    Nat.zero_mul, Nat.zero_add]
  rw [Nat.mod_eq_of_lt (lt_of_lt_of_le hlt hp)]

/-- The loop of READN in closed form. -/
theorem readLoop_eq (n : Nat) (a : Half) (s : State) (ha : s.acc = some a) (h : s.canRead n) :
    readLoop n a s = .next (BitVec.ofNat 16 (a.toNat * 2 ^ n + wbits s.byte s.cur.toNat n),
      { s with
        acc := some (BitVec.ofNat 16 (a.toNat * 2 ^ n + wbits s.byte s.cur.toNat n))
        cur := BitVec.ofNat 7 (s.cur.toNat + n)
        readTrace := noteReads s.cur.toNat n s.readTrace }) := by
  induction n generalizing a s with
  | zero => simp [readLoop, wbits, noteReads, ← ha]
  | succ n ih =>
    obtain ⟨h1, h2, h3⟩ := h
    have hc : s.cur.toNat < 127 := by omega
    have hb := h3 (s.cur.toNat / 8) (le_refl _) (by omega)
    simp only [readLoop]
    rw [read1_eq hc (by omega) hb, andThen_next]
    rw [ih (accStep a (wbit (s.byte (s.cur.toNat / 8)) s.cur.toNat))
      { s with
        acc := some (accStep a (wbit (s.byte (s.cur.toNat / 8)) s.cur.toNat))
        cur := s.cur + 1
        readTrace := noteRead (s.cur.toNat / 8) s.readTrace } rfl
      ⟨by show (s.cur + 1).toNat + n ≤ 127; rw [cur_succ hc]; omega,
       by show (s.cur + 1).toNat + n ≤ 8 * s.inLen; rw [cur_succ hc]; omega,
       fun x hx hx' => h3 x (by change (s.cur + 1).toNat / 8 ≤ x at hx; rw [cur_succ hc] at hx; omega)
         (by change 8 * x < (s.cur + 1).toNat + n at hx'; rw [cur_succ hc] at hx'; omega)⟩]
    have hbyte : State.byte { s with
        acc := some (accStep a (wbit (s.byte (s.cur.toNat / 8)) s.cur.toNat))
        cur := s.cur + 1
        readTrace := noteRead (s.cur.toNat / 8) s.readTrace } = s.byte := byte_congr rfl
    simp only [hbyte, cur_succ hc, noteReads, accStep_wbits]
    rw [show s.cur.toNat + 1 + n = s.cur.toNat + (n + 1) by omega]

/-- READN in closed form (40_cursor_primitives.md R103), with all it changes. -/
theorem readN_eq {n : Nat} {s : State} (hn : n ≤ 16) (h : s.canRead n) :
    readN n s = .next (BitVec.ofNat n (wbits s.byte s.cur.toNat n), s.afterRead n) := by
  unfold readN
  rw [readLoop_eq n 0 { s with acc := some 0 } rfl h]
  have hbyte : State.byte { s with acc := some 0 } = s.byte := byte_congr rfl
  simp only [andThen_next, hbyte, State.afterRead]
  rw [setWidth_wbits hn]
  simp

/-- All that the loop of READN can change. -/
theorem readLoop_frame {n : Nat} {a a' : Half} {s t : State} (h : readLoop n a s = .next (a', t)) :
    t = { s with acc := t.acc, cur := t.cur, readTrace := t.readTrace } := by
  induction n generalizing a s with
  | zero => cases h; rfl
  | succ n ih =>
    obtain ⟨⟨b, u⟩, hu, h⟩ := andThen_eq_next h
    obtain ⟨-, -, -, rfl⟩ := read1_next_inv hu
    have := ih h
    rw [this]

/-- A loop that answers next found every byte it read supplied, and within the buffer. -/
theorem readLoop_held {n : Nat} {a a' : Half} {s t : State} (h : readLoop n a s = .next (a', t))
    (hc : s.cur.toNat + n ≤ 127) (x : Nat) (h1 : s.cur.toNat / 8 ≤ x)
    (h2 : 8 * x < s.cur.toNat + n) (hn : 0 < n) :
    (Memory.get s.buf x).isSome = true ∧ x < s.inLen := by
  induction n generalizing a s with
  | zero => omega
  | succ n ih =>
    obtain ⟨⟨b, u⟩, hu, h⟩ := andThen_eq_next h
    obtain ⟨hl, hb, -, rfl⟩ := read1_next_inv hu
    by_cases hx : x = byteIdx s.cur
    · subst hx; exact ⟨hb, hl⟩
    · have e : (advance s).toNat = s.cur.toNat + 1 := by
        rw [advance_eq (by omega), cur_succ (by omega)]
      unfold byteIdx at hx
      have key := ih h (by show (advance s).toNat + n ≤ 127; omega)
        (by show (advance s).toNat / 8 ≤ x; omega)
        (by show 8 * x < (advance s).toNat + n; omega) (by omega)
      exact key

/-- A READN that answers next found every byte it read supplied, and within the buffer. -/
theorem readN_held {n : Nat} {v : BitVec n} {s t : State} (h : readN n s = .next (v, t))
    (hc : s.cur.toNat + n ≤ 127) (hn : 0 < n) (x : Nat) (h1 : s.cur.toNat / 8 ≤ x)
    (h2 : 8 * x < s.cur.toNat + n) : (Memory.get s.buf x).isSome = true ∧ x < s.inLen := by
  obtain ⟨⟨a, u⟩, hu, -⟩ := andThen_eq_next h
  exact readLoop_held hu hc x h1 h2 hn

/-- A READN that answers next could read. -/
theorem canRead_of_readN {n : Nat} {v : BitVec n} {s t : State} (h : readN n s = .next (v, t))
    (hc : s.cur.toNat + n ≤ 127) (hn : 0 < n) : s.canRead n := by
  refine ⟨hc, ?_, fun a h1 h2 => (readN_held h hc hn a h1 h2).1⟩
  have := (readN_held h hc hn ((s.cur.toNat + n - 1) / 8) (by omega) (by omega)).2
  omega

/-- All that READN can change: `acc`, `cur` and the trace (40_cursor_primitives.md R102). -/
theorem readN_frame {n : Nat} {v : BitVec n} {s t : State} (h : readN n s = .next (v, t)) :
    t = { s with acc := t.acc, cur := t.cur, readTrace := t.readTrace } := by
  obtain ⟨⟨a, u⟩, hu, h⟩ := andThen_eq_next h
  cases h
  have := readLoop_frame hu
  rw [this]

/-- READ1 past the end of the buffer (40_cursor_primitives.md R101). -/
theorem read1_pastEnd {s : State} (h : 8 * s.inLen ≤ s.cur.toNat) : read1 s = .fault .readPastEnd := by
  rcases memRead_cases (byteIdx s.cur) s with ⟨hl, -⟩ | ⟨hl, -⟩ | ⟨-, e⟩
  · unfold byteIdx at hl; omega
  · unfold byteIdx at hl; omega
  · rw [read1, e]; rfl

/-- READ1 at a byte the host has not supplied (70_reset_and_hazards.md R208). -/
theorem read1_unreadable {s : State} (hl : s.cur.toNat / 8 < s.inLen)
    (hn : Memory.get s.buf (s.cur.toNat / 8) = none) : read1 s = .refused .bufferUnreadable := by
  rcases memRead_cases (byteIdx s.cur) s with ⟨-, b, hb, -⟩ | ⟨-, -, e⟩ | ⟨hg, -⟩
  · exact absurd (hn.symm.trans hb) (by simp)
  · rw [read1, e]; rfl
  · unfold byteIdx at hg; omega

/-- The loop of READN faults where it runs past the end of a buffer shorter than the cursor's range. -/
theorem readLoop_pastEnd {n : Nat} {a : Half} {s : State} (hl : s.inLen < 16) (hn : 0 < n)
    (he : 8 * s.inLen < s.cur.toNat + n)
    (hb : ∀ x, s.cur.toNat / 8 ≤ x → x < s.inLen → (Memory.get s.buf x).isSome = true) :
    readLoop n a s = .fault .readPastEnd := by
  induction n generalizing a s with
  | zero => omega
  | succ n ih =>
    rw [readLoop]
    by_cases hc : s.cur.toNat < 8 * s.inLen
    · rw [read1_eq (by omega) hc (hb _ (le_refl _) (by omega)), andThen_next]
      have hs := cur_succ (s := s) (by omega)
      exact ih hl (by omega) (by show 8 * s.inLen < (s.cur + 1).toNat + n; omega)
        fun x hx hx' => hb x (by change (s.cur + 1).toNat / 8 ≤ x at hx; omega) hx'
    · rw [read1_pastEnd (by omega)]; rfl

/-- The loop of READN is refused where it comes to a byte the host has not supplied. -/
theorem readLoop_unreadable {n : Nat} {a : Half} {s : State} {x : Nat} (h1 : s.cur.toNat / 8 ≤ x)
    (h2 : 8 * x < s.cur.toNat + n) (hl : x < s.inLen) (hx : x < 16) (hn : 0 < n)
    (hg : Memory.get s.buf x = none) : readLoop n a s = .refused .bufferUnreadable := by
  induction n generalizing a s with
  | zero => omega
  | succ n ih =>
    rw [readLoop]
    cases hm : Memory.get s.buf (s.cur.toNat / 8) with
    | none => rw [read1_unreadable (by omega) hm]; rfl
    | some b =>
      have hne : s.cur.toNat / 8 ≠ x := fun e => by rw [e, hg] at hm; cases hm
      rw [read1_eq (by omega) (by omega) (by rw [hm]; rfl), andThen_next]
      have hs := cur_succ (s := s) (by omega)
      exact ih (by show (s.cur + 1).toNat / 8 ≤ x; omega)
        (by show 8 * x < (s.cur + 1).toNat + n; omega) hl (by omega) hg

/-- READN past the end of the buffer (40_cursor_primitives.md R101). -/
theorem readN_pastEnd {n : Nat} {s : State} (hl : s.inLen < 16) (hn : 0 < n)
    (he : 8 * s.inLen < s.cur.toNat + n)
    (hb : ∀ x, s.cur.toNat / 8 ≤ x → x < s.inLen → (Memory.get s.buf x).isSome = true) :
    readN n s = .fault .readPastEnd := by
  rw [readN, readLoop_pastEnd (s := { s with acc := some 0 }) hl hn he hb]; rfl

/-- READN at a byte the host has not supplied (70_reset_and_hazards.md R208). -/
theorem readN_unreadable {n : Nat} {s : State} {x : Nat} (h1 : s.cur.toNat / 8 ≤ x)
    (h2 : 8 * x < s.cur.toNat + n) (hl : x < s.inLen) (hx : x < 16) (hn : 0 < n)
    (hg : Memory.get s.buf x = none) : readN n s = .refused .bufferUnreadable := by
  rw [readN, readLoop_unreadable (s := { s with acc := some 0 }) h1 h2 hl hx hn hg]; rfl

/-- The loop of READN over the last bit the cursor can reach: every bit is the buffer's, and the cursor
it leaves is the free value (log 11). -/
theorem readLoop_toEnd {n : Nat} {a : Half} {s : State} (hc : s.cur.toNat + (n + 1) = 128)
    (hl : 16 ≤ s.inLen)
    (hb : ∀ x, s.cur.toNat / 8 ≤ x → x < 16 → (Memory.get s.buf x).isSome = true) :
    readLoop (n + 1) a s =
      .next (BitVec.ofNat 16 (a.toNat * 2 ^ (n + 1) + wbits s.byte s.cur.toNat (n + 1)),
        { s with
          acc := some (BitVec.ofNat 16 (a.toNat * 2 ^ (n + 1) + wbits s.byte s.cur.toNat (n + 1)))
          cur := Config.curPast127 s.freeCount
          readTrace := noteReads s.cur.toNat (n + 1) s.readTrace }) := by
  induction n generalizing a s with
  | zero =>
    have e : s.cur.toNat = 127 := by omega
    have ec : s.cur = 127 := BitVec.eq_of_toNat_eq e
    obtain ⟨b, hbb⟩ := Option.isSome_iff_exists.mp (hb 15 (by omega) (by decide))
    have hi : byteIdx s.cur = 15 := by unfold byteIdx; omega
    have hy : s.byte (s.cur.toNat / 8) = b := byte_eq (by rw [show s.cur.toNat / 8 = 15 by omega]; exact hbb)
    have ha : advance s = Config.curPast127 s.freeCount := if_pos ec
    simp only [readLoop, read1, hi, memRead_next (show 15 < s.inLen by omega) hbb, andThen_next, ha,
      accStep_eq, wbits, noteReads, Nat.add_zero, hy]
    simp [e, Nat.mul_comm]
  | succ n ih =>
    have hs := cur_succ (s := s) (by omega)
    rw [readLoop, read1_eq (by omega) (by omega) (hb _ (le_refl _) (by omega)), andThen_next]
    rw [ih (s := { s with
        acc := some (accStep a (wbit (s.byte (s.cur.toNat / 8)) s.cur.toNat))
        cur := s.cur + 1
        readTrace := noteRead (s.cur.toNat / 8) s.readTrace })
      (by show (s.cur + 1).toNat + (n + 1) = 128; omega) hl
      fun x hx hx' => hb x (by change (s.cur + 1).toNat / 8 ≤ x at hx; omega) hx']
    have hbyte : State.byte { s with
        acc := some (accStep a (wbit (s.byte (s.cur.toNat / 8)) s.cur.toNat))
        cur := s.cur + 1
        readTrace := noteRead (s.cur.toNat / 8) s.readTrace } = s.byte := byte_congr rfl
    simp only [hbyte, hs, accStep_wbits, noteReads]

/-- READN over the last bit the cursor can reach (log 11). -/
theorem readN_toEnd {n : Nat} {s : State} (h0 : 0 < n) (hn : n ≤ 16) (hc : s.cur.toNat + n = 128)
    (hl : 16 ≤ s.inLen)
    (hb : ∀ x, s.cur.toNat / 8 ≤ x → x < 16 → (Memory.get s.buf x).isSome = true) :
    readN n s = .next (BitVec.ofNat n (wbits s.byte s.cur.toNat n),
      { s.afterRead n with cur := Config.curPast127 s.freeCount }) := by
  obtain ⟨n, rfl⟩ : ∃ m, n = m + 1 := ⟨n - 1, by omega⟩
  rw [readN, readLoop_toEnd (s := { s with acc := some 0 }) hc hl hb]
  have hbyte : State.byte { s with acc := some 0 } = s.byte := byte_congr rfl
  simp only [andThen_next, hbyte, State.afterRead, setWidth_wbits hn]
  simp

end Sys2Proof.Machine
end

