-- ==== Sys2Proof/Laws/PerInstr.lean ====
section
/-! SUPPORT. Statements for all instructions, one lemma per constructor. Family `Encoded`: the recogniser
an instruction's encoding selects accepts that encoding, whatever the operands are. -/

namespace Sys2Proof.Laws

/-- The encoder writes the reserved zone as zero (43_reference_encoder.md R160). -/
theorem zone_of_encodeHeader (h : Header) : zoneOf (byteAt (encodeHeader h)) = 0 := by
  have key : ∀ (r : Bool) (c : BitVec 4),
      BitVec.extractLsb' 4 3 (((BitVec.ofBool r).setWidth 8 <<< 7) ||| ((0 : Byte) <<< 4) |||
        c.setWidth 8) = 0 := by decide
  exact key h.ra (unmapRcode h.rcode)

/-- The selected recogniser accepts the encoding. -/
def Encoded.Statement (i : Instr) : Prop :=
  ∃ j, decode (encode i).1 (encode i).2 = .ok j

theorem Encoded.decode : Encoded.Statement .decode := ⟨_, rfl⟩
theorem Encoded.decodeOk (h : Header) : Encoded.Statement (.decodeOk h) := ⟨_, rfl⟩
theorem Encoded.decodeMalformed1 : Encoded.Statement .decodeMalformed1 := ⟨_, rfl⟩
theorem Encoded.decodeMalformed2 : Encoded.Statement .decodeMalformed2 := ⟨_, rfl⟩
theorem Encoded.decodeMalformed3 : Encoded.Statement .decodeMalformed3 := ⟨_, rfl⟩
theorem Encoded.decodeMalformed4 : Encoded.Statement .decodeMalformed4 := ⟨_, rfl⟩
theorem Encoded.decodeMalformed5 : Encoded.Statement .decodeMalformed5 := ⟨_, rfl⟩
theorem Encoded.decodeMalformed6 : Encoded.Statement .decodeMalformed6 := ⟨_, rfl⟩
theorem Encoded.decodeMalformed7 : Encoded.Statement .decodeMalformed7 := ⟨_, rfl⟩
theorem Encoded.decodeTruncatedL0 : Encoded.Statement .decodeTruncatedL0 := ⟨_, rfl⟩
theorem Encoded.decodeTruncatedL1 : Encoded.Statement .decodeTruncatedL1 := ⟨_, rfl⟩
theorem Encoded.decodeTruncatedL2 : Encoded.Statement .decodeTruncatedL2 := ⟨_, rfl⟩
theorem Encoded.decodeTruncatedL3 : Encoded.Statement .decodeTruncatedL3 := ⟨_, rfl⟩
theorem Encoded.decodeTruncatedL4 : Encoded.Statement .decodeTruncatedL4 := ⟨_, rfl⟩
theorem Encoded.decodeTruncatedL5 : Encoded.Statement .decodeTruncatedL5 := ⟨_, rfl⟩
theorem Encoded.decodeTruncatedL6 : Encoded.Statement .decodeTruncatedL6 := ⟨_, rfl⟩
theorem Encoded.decodeTruncatedL7 : Encoded.Statement .decodeTruncatedL7 := ⟨_, rfl⟩
theorem Encoded.decodeTruncatedL8 : Encoded.Statement .decodeTruncatedL8 := ⟨_, rfl⟩
theorem Encoded.decodeTruncatedL9 : Encoded.Statement .decodeTruncatedL9 := ⟨_, rfl⟩
theorem Encoded.decodeTruncatedL10 : Encoded.Statement .decodeTruncatedL10 := ⟨_, rfl⟩
theorem Encoded.decodeTruncatedL11 : Encoded.Statement .decodeTruncatedL11 := ⟨_, rfl⟩
theorem Encoded.start : Encoded.Statement .start := ⟨_, rfl⟩
theorem Encoded.chkLen : Encoded.Statement .chkLen := ⟨_, rfl⟩
theorem Encoded.rdId : Encoded.Statement .rdId := ⟨_, rfl⟩
theorem Encoded.rdQr : Encoded.Statement .rdQr := ⟨_, rfl⟩
theorem Encoded.rdOpcode : Encoded.Statement .rdOpcode := ⟨_, rfl⟩
theorem Encoded.rdAa : Encoded.Statement .rdAa := ⟨_, rfl⟩
theorem Encoded.rdTc : Encoded.Statement .rdTc := ⟨_, rfl⟩
theorem Encoded.rdRd : Encoded.Statement .rdRd := ⟨_, rfl⟩
theorem Encoded.rdRa : Encoded.Statement .rdRa := ⟨_, rfl⟩
theorem Encoded.rdZ : Encoded.Statement .rdZ := ⟨_, rfl⟩
theorem Encoded.rdRcode : Encoded.Statement .rdRcode := ⟨_, rfl⟩
theorem Encoded.rdQdcount : Encoded.Statement .rdQdcount := ⟨_, rfl⟩
theorem Encoded.rdAncount : Encoded.Statement .rdAncount := ⟨_, rfl⟩
theorem Encoded.rdNscount : Encoded.Statement .rdNscount := ⟨_, rfl⟩
theorem Encoded.rdArcount : Encoded.Statement .rdArcount := ⟨_, rfl⟩
theorem Encoded.mapOpcode0 : Encoded.Statement .mapOpcode0 := ⟨_, rfl⟩
theorem Encoded.mapOpcode1 : Encoded.Statement .mapOpcode1 := ⟨_, rfl⟩
theorem Encoded.mapOpcode2 : Encoded.Statement .mapOpcode2 := ⟨_, rfl⟩
theorem Encoded.mapOpcode3 : Encoded.Statement .mapOpcode3 := ⟨_, rfl⟩
theorem Encoded.mapOpcode4 : Encoded.Statement .mapOpcode4 := ⟨_, rfl⟩
theorem Encoded.mapOpcode5 : Encoded.Statement .mapOpcode5 := ⟨_, rfl⟩
theorem Encoded.mapOpcode6 : Encoded.Statement .mapOpcode6 := ⟨_, rfl⟩
theorem Encoded.mapOpcode7 : Encoded.Statement .mapOpcode7 := ⟨_, rfl⟩
theorem Encoded.mapOpcode8 : Encoded.Statement .mapOpcode8 := ⟨_, rfl⟩
theorem Encoded.mapOpcode9 : Encoded.Statement .mapOpcode9 := ⟨_, rfl⟩
theorem Encoded.mapOpcode10 : Encoded.Statement .mapOpcode10 := ⟨_, rfl⟩
theorem Encoded.mapOpcode11 : Encoded.Statement .mapOpcode11 := ⟨_, rfl⟩
theorem Encoded.mapOpcode12 : Encoded.Statement .mapOpcode12 := ⟨_, rfl⟩
theorem Encoded.mapOpcode13 : Encoded.Statement .mapOpcode13 := ⟨_, rfl⟩
theorem Encoded.mapOpcode14 : Encoded.Statement .mapOpcode14 := ⟨_, rfl⟩
theorem Encoded.mapOpcode15 : Encoded.Statement .mapOpcode15 := ⟨_, rfl⟩
theorem Encoded.mapRcode0 : Encoded.Statement .mapRcode0 := ⟨_, rfl⟩
theorem Encoded.mapRcode1 : Encoded.Statement .mapRcode1 := ⟨_, rfl⟩
theorem Encoded.mapRcode2 : Encoded.Statement .mapRcode2 := ⟨_, rfl⟩
theorem Encoded.mapRcode3 : Encoded.Statement .mapRcode3 := ⟨_, rfl⟩
theorem Encoded.mapRcode4 : Encoded.Statement .mapRcode4 := ⟨_, rfl⟩
theorem Encoded.mapRcode5 : Encoded.Statement .mapRcode5 := ⟨_, rfl⟩
theorem Encoded.mapRcode6 : Encoded.Statement .mapRcode6 := ⟨_, rfl⟩
theorem Encoded.mapRcode7 : Encoded.Statement .mapRcode7 := ⟨_, rfl⟩
theorem Encoded.mapRcode8 : Encoded.Statement .mapRcode8 := ⟨_, rfl⟩
theorem Encoded.mapRcode9 : Encoded.Statement .mapRcode9 := ⟨_, rfl⟩
theorem Encoded.mapRcode10 : Encoded.Statement .mapRcode10 := ⟨_, rfl⟩
theorem Encoded.mapRcode11 : Encoded.Statement .mapRcode11 := ⟨_, rfl⟩
theorem Encoded.mapRcode12 : Encoded.Statement .mapRcode12 := ⟨_, rfl⟩
theorem Encoded.mapRcode13 : Encoded.Statement .mapRcode13 := ⟨_, rfl⟩
theorem Encoded.mapRcode14 : Encoded.Statement .mapRcode14 := ⟨_, rfl⟩
theorem Encoded.mapRcode15 : Encoded.Statement .mapRcode15 := ⟨_, rfl⟩
theorem Encoded.assemble : Encoded.Statement .assemble := ⟨_, rfl⟩
theorem Encoded.read1 : Encoded.Statement .read1 := ⟨_, rfl⟩
theorem Encoded.readn1 : Encoded.Statement .readn1 := ⟨_, rfl⟩
theorem Encoded.readn3 : Encoded.Statement .readn3 := ⟨_, rfl⟩
theorem Encoded.readn4 : Encoded.Statement .readn4 := ⟨_, rfl⟩
theorem Encoded.readn16 : Encoded.Statement .readn16 := ⟨_, rfl⟩
theorem Encoded.encode (h : Header) : Encoded.Statement (.encode h) :=
  ⟨.encode (headerOf (byteAt (encodeHeader h))), if_pos (zone_of_encodeHeader h)⟩

end Sys2Proof.Laws
end

