-- ==== Sys2Proof/Laws/Steps.lean ====
section
/-! SUPPORT. One lemma per step of the sequence: what it does where its bits can be read, and what it can
change in any case; and what `onStart` and `runSteps` do. -/

namespace Sys2Proof.Machine

/-- READN of one bit gives the bit at the cursor. -/
theorem flagOf_wbits (b : Nat → Byte) (c : Nat) :
    flagOf (BitVec.ofNat 1 (wbits b c 1)) = wbit (b (c / 8)) c := by
  simp only [wbits, flagOf]
  cases wbit (b ((c + 0) / 8)) (c + 0) <;> rfl

theorem extractId_eq {s : State} (h : s.canRead 16) :
    extractId s = .next { s.afterRead 16 with
      id := some (BitVec.ofNat 16 (wbits s.byte s.cur.toNat 16)) } := by
  rw [extractId, readN_eq (by decide) h, andThen_next]

theorem extractQdcount_eq {s : State} (h : s.canRead 16) :
    extractQdcount s = .next { s.afterRead 16 with
      qdcount := some (BitVec.ofNat 16 (wbits s.byte s.cur.toNat 16)) } := by
  rw [extractQdcount, readN_eq (by decide) h, andThen_next]

theorem extractAncount_eq {s : State} (h : s.canRead 16) :
    extractAncount s = .next { s.afterRead 16 with
      ancount := some (BitVec.ofNat 16 (wbits s.byte s.cur.toNat 16)) } := by
  rw [extractAncount, readN_eq (by decide) h, andThen_next]

theorem extractNscount_eq {s : State} (h : s.canRead 16) :
    extractNscount s = .next { s.afterRead 16 with
      nscount := some (BitVec.ofNat 16 (wbits s.byte s.cur.toNat 16)) } := by
  rw [extractNscount, readN_eq (by decide) h, andThen_next]

theorem extractArcount_eq {s : State} (h : s.canRead 16) :
    extractArcount s = .next { s.afterRead 16 with
      arcount := some (BitVec.ofNat 16 (wbits s.byte s.cur.toNat 16)) } := by
  rw [extractArcount, readN_eq (by decide) h, andThen_next]

theorem extractQr_eq {s : State} (h : s.canRead 1) :
    extractQr s = .next { s.afterRead 1 with
      qr := some (wbit (s.byte (s.cur.toNat / 8)) s.cur.toNat) } := by
  rw [extractQr, readN_eq (by decide) h, andThen_next, flagOf_wbits]

theorem extractAa_eq {s : State} (h : s.canRead 1) :
    extractAa s = .next { s.afterRead 1 with
      aa := some (wbit (s.byte (s.cur.toNat / 8)) s.cur.toNat) } := by
  rw [extractAa, readN_eq (by decide) h, andThen_next, flagOf_wbits]

theorem extractTc_eq {s : State} (h : s.canRead 1) :
    extractTc s = .next { s.afterRead 1 with
      tc := some (wbit (s.byte (s.cur.toNat / 8)) s.cur.toNat) } := by
  rw [extractTc, readN_eq (by decide) h, andThen_next, flagOf_wbits]

theorem extractRd_eq {s : State} (h : s.canRead 1) :
    extractRd s = .next { s.afterRead 1 with
      rd := some (wbit (s.byte (s.cur.toNat / 8)) s.cur.toNat) } := by
  rw [extractRd, readN_eq (by decide) h, andThen_next, flagOf_wbits]

theorem extractRa_eq {s : State} (h : s.canRead 1) :
    extractRa s = .next { s.afterRead 1 with
      ra := some (wbit (s.byte (s.cur.toNat / 8)) s.cur.toNat) } := by
  rw [extractRa, readN_eq (by decide) h, andThen_next, flagOf_wbits]

theorem extractOpcode_eq {s : State} (h : s.canRead 4) :
    extractOpcode s = .next { s.afterRead 4 with
      opcodeRaw := some (BitVec.ofNat 4 (wbits s.byte s.cur.toNat 4))
      opcodeTag := some (mapOpcode (BitVec.ofNat 4 (wbits s.byte s.cur.toNat 4))).tag } := by
  rw [extractOpcode, readN_eq (by decide) h, andThen_next]

theorem extractRcode_eq {s : State} (h : s.canRead 4) :
    extractRcode s = .next { s.afterRead 4 with
      rcodeRaw := some (BitVec.ofNat 4 (wbits s.byte s.cur.toNat 4))
      rcodeTag := some (mapRcode (BitVec.ofNat 4 (wbits s.byte s.cur.toNat 4))).tag } := by
  rw [extractRcode, readN_eq (by decide) h, andThen_next]

theorem extractZ_eq {s : State} (h : s.canRead 3) :
    extractZ s =
      if BitVec.ofNat 3 (wbits s.byte s.cur.toNat 3) = 0 then
        .next { s.afterRead 3 with z := some (BitVec.ofNat 3 (wbits s.byte s.cur.toNat 3)) }
      else
        .next (raiseMalformed (BitVec.ofNat 3 (wbits s.byte s.cur.toNat 3))
          { s.afterRead 3 with z := some (BitVec.ofNat 3 (wbits s.byte s.cur.toNat 3)) }) := by
  rw [extractZ, readN_eq (by decide) h, andThen_next]

/-! All that an extraction can change: its own registers, `acc`, `cur` and the trace
(41_field_extraction.md R123); RD.Z also what a failure writes. -/

theorem extractId_frame {s t : State} (h : extractId s = .next t) :
    t = { s with id := t.id, acc := t.acc, cur := t.cur, readTrace := t.readTrace } := by
  obtain ⟨⟨v, u⟩, hv, h⟩ := andThen_eq_next h
  cases h
  have := readN_frame hv
  rw [this]

theorem extractQr_frame {s t : State} (h : extractQr s = .next t) :
    t = { s with qr := t.qr, acc := t.acc, cur := t.cur, readTrace := t.readTrace } := by
  obtain ⟨⟨v, u⟩, hv, h⟩ := andThen_eq_next h
  cases h
  have := readN_frame hv
  rw [this]

theorem extractOpcode_frame {s t : State} (h : extractOpcode s = .next t) :
    t = { s with opcodeRaw := t.opcodeRaw, opcodeTag := t.opcodeTag, acc := t.acc, cur := t.cur, readTrace := t.readTrace } := by
  obtain ⟨⟨v, u⟩, hv, h⟩ := andThen_eq_next h
  cases h
  have := readN_frame hv
  rw [this]

theorem extractAa_frame {s t : State} (h : extractAa s = .next t) :
    t = { s with aa := t.aa, acc := t.acc, cur := t.cur, readTrace := t.readTrace } := by
  obtain ⟨⟨v, u⟩, hv, h⟩ := andThen_eq_next h
  cases h
  have := readN_frame hv
  rw [this]

theorem extractTc_frame {s t : State} (h : extractTc s = .next t) :
    t = { s with tc := t.tc, acc := t.acc, cur := t.cur, readTrace := t.readTrace } := by
  obtain ⟨⟨v, u⟩, hv, h⟩ := andThen_eq_next h
  cases h
  have := readN_frame hv
  rw [this]

theorem extractRd_frame {s t : State} (h : extractRd s = .next t) :
    t = { s with rd := t.rd, acc := t.acc, cur := t.cur, readTrace := t.readTrace } := by
  obtain ⟨⟨v, u⟩, hv, h⟩ := andThen_eq_next h
  cases h
  have := readN_frame hv
  rw [this]

theorem extractRa_frame {s t : State} (h : extractRa s = .next t) :
    t = { s with ra := t.ra, acc := t.acc, cur := t.cur, readTrace := t.readTrace } := by
  obtain ⟨⟨v, u⟩, hv, h⟩ := andThen_eq_next h
  cases h
  have := readN_frame hv
  rw [this]

theorem extractRcode_frame {s t : State} (h : extractRcode s = .next t) :
    t = { s with rcodeRaw := t.rcodeRaw, rcodeTag := t.rcodeTag, acc := t.acc, cur := t.cur, readTrace := t.readTrace } := by
  obtain ⟨⟨v, u⟩, hv, h⟩ := andThen_eq_next h
  cases h
  have := readN_frame hv
  rw [this]

theorem extractQdcount_frame {s t : State} (h : extractQdcount s = .next t) :
    t = { s with qdcount := t.qdcount, acc := t.acc, cur := t.cur, readTrace := t.readTrace } := by
  obtain ⟨⟨v, u⟩, hv, h⟩ := andThen_eq_next h
  cases h
  have := readN_frame hv
  rw [this]

theorem extractAncount_frame {s t : State} (h : extractAncount s = .next t) :
    t = { s with ancount := t.ancount, acc := t.acc, cur := t.cur, readTrace := t.readTrace } := by
  obtain ⟨⟨v, u⟩, hv, h⟩ := andThen_eq_next h
  cases h
  have := readN_frame hv
  rw [this]

theorem extractNscount_frame {s t : State} (h : extractNscount s = .next t) :
    t = { s with nscount := t.nscount, acc := t.acc, cur := t.cur, readTrace := t.readTrace } := by
  obtain ⟨⟨v, u⟩, hv, h⟩ := andThen_eq_next h
  cases h
  have := readN_frame hv
  rw [this]

theorem extractArcount_frame {s t : State} (h : extractArcount s = .next t) :
    t = { s with arcount := t.arcount, acc := t.acc, cur := t.cur, readTrace := t.readTrace } := by
  obtain ⟨⟨v, u⟩, hv, h⟩ := andThen_eq_next h
  cases h
  have := readN_frame hv
  rw [this]

theorem extractZ_frame {s t : State} (h : extractZ s = .next t) :
    ∃ (p : BitVec 3) (u : State), readN 3 s = .next (p, u) ∧
      t = if p = 0 then { u with z := some p } else raiseMalformed p { u with z := some p } := by
  obtain ⟨⟨p, u⟩, hp, h⟩ := andThen_eq_next h
  refine ⟨p, u, hp, ?_⟩
  by_cases h0 : p = 0
  · simp only [h0, if_true] at h ⊢
    cases h
    rfl
  · simp only [h0, if_false] at h ⊢
    cases h
    rfl

/-! An extraction that answers next could read its bits. -/

theorem canRead_of_extractId {s t : State} (h : extractId s = .next t)
    (hc : s.cur.toNat + 16 ≤ 127) : s.canRead 16 := by
  obtain ⟨⟨v, u⟩, hv, -⟩ := andThen_eq_next h
  exact canRead_of_readN hv hc (by decide)

theorem canRead_of_extractQr {s t : State} (h : extractQr s = .next t)
    (hc : s.cur.toNat + 1 ≤ 127) : s.canRead 1 := by
  obtain ⟨⟨v, u⟩, hv, -⟩ := andThen_eq_next h
  exact canRead_of_readN hv hc (by decide)

theorem canRead_of_extractOpcode {s t : State} (h : extractOpcode s = .next t)
    (hc : s.cur.toNat + 4 ≤ 127) : s.canRead 4 := by
  obtain ⟨⟨v, u⟩, hv, -⟩ := andThen_eq_next h
  exact canRead_of_readN hv hc (by decide)

theorem canRead_of_extractAa {s t : State} (h : extractAa s = .next t)
    (hc : s.cur.toNat + 1 ≤ 127) : s.canRead 1 := by
  obtain ⟨⟨v, u⟩, hv, -⟩ := andThen_eq_next h
  exact canRead_of_readN hv hc (by decide)

theorem canRead_of_extractTc {s t : State} (h : extractTc s = .next t)
    (hc : s.cur.toNat + 1 ≤ 127) : s.canRead 1 := by
  obtain ⟨⟨v, u⟩, hv, -⟩ := andThen_eq_next h
  exact canRead_of_readN hv hc (by decide)

theorem canRead_of_extractRd {s t : State} (h : extractRd s = .next t)
    (hc : s.cur.toNat + 1 ≤ 127) : s.canRead 1 := by
  obtain ⟨⟨v, u⟩, hv, -⟩ := andThen_eq_next h
  exact canRead_of_readN hv hc (by decide)

theorem canRead_of_extractRa {s t : State} (h : extractRa s = .next t)
    (hc : s.cur.toNat + 1 ≤ 127) : s.canRead 1 := by
  obtain ⟨⟨v, u⟩, hv, -⟩ := andThen_eq_next h
  exact canRead_of_readN hv hc (by decide)

theorem canRead_of_extractZ {s t : State} (h : extractZ s = .next t)
    (hc : s.cur.toNat + 3 ≤ 127) : s.canRead 3 := by
  obtain ⟨⟨v, u⟩, hv, -⟩ := andThen_eq_next h
  exact canRead_of_readN hv hc (by decide)

theorem canRead_of_extractRcode {s t : State} (h : extractRcode s = .next t)
    (hc : s.cur.toNat + 4 ≤ 127) : s.canRead 4 := by
  obtain ⟨⟨v, u⟩, hv, -⟩ := andThen_eq_next h
  exact canRead_of_readN hv hc (by decide)

theorem canRead_of_extractQdcount {s t : State} (h : extractQdcount s = .next t)
    (hc : s.cur.toNat + 16 ≤ 127) : s.canRead 16 := by
  obtain ⟨⟨v, u⟩, hv, -⟩ := andThen_eq_next h
  exact canRead_of_readN hv hc (by decide)

theorem canRead_of_extractAncount {s t : State} (h : extractAncount s = .next t)
    (hc : s.cur.toNat + 16 ≤ 127) : s.canRead 16 := by
  obtain ⟨⟨v, u⟩, hv, -⟩ := andThen_eq_next h
  exact canRead_of_readN hv hc (by decide)

theorem canRead_of_extractNscount {s t : State} (h : extractNscount s = .next t)
    (hc : s.cur.toNat + 16 ≤ 127) : s.canRead 16 := by
  obtain ⟨⟨v, u⟩, hv, -⟩ := andThen_eq_next h
  exact canRead_of_readN hv hc (by decide)

theorem canRead_of_extractArcount {s t : State} (h : extractArcount s = .next t)
    (hc : s.cur.toNat + 16 ≤ 127) : s.canRead 16 := by
  obtain ⟨⟨v, u⟩, hv, -⟩ := andThen_eq_next h
  exact canRead_of_readN hv hc (by decide)

/-- The first `k` bytes are enough for every read within them. -/
theorem canRead_of_held {s : State} {n k : Nat} (hk : k ≤ 12) (hl : 12 ≤ s.inLen)
    (hh : ∀ a, a < k → (Memory.get s.buf a).isSome = true) (hc : s.cur.toNat + n ≤ 8 * k) :
    s.canRead n :=
  ⟨by omega, by omega, fun a _ ha => hh a (by omega)⟩

/-- The header's bytes are enough for every read within the header. -/
theorem canRead_of_headerHeld {s : State} {n : Nat} (hl : 12 ≤ s.inLen) (hh : s.headerHeld)
    (hc : s.cur.toNat + n ≤ 96) : s.canRead n :=
  ⟨by omega, by omega, fun a _ ha => hh a (by omega)⟩

/-- `afterRead` where the cursor and the trace are known. -/
theorem afterRead_at {s : State} {n c : Nat} {tr : List Nat} (hc : s.cur.toNat = c)
    (ht : noteReads c n s.readTrace = tr) :
    s.afterRead n = { s with
      acc := some (BitVec.ofNat 16 (wbits s.byte c n))
      cur := BitVec.ofNat 7 (c + n)
      readTrace := tr } := by
  subst hc ht
  rfl

theorem headerReadable_iff {s : State} : s.headerReadable = true ↔ s.headerHeld := by
  simp [State.headerReadable, State.headerHeld, Config.hdrBytes]

/-- The guard of `whenReadable` is the buffer a START needs. -/
theorem whenReadable_eq {f : State → Out State} {s : State} (h : s.supplied) :
    whenReadable f s = f s :=
  if_pos (h.imp id headerReadable_iff.mpr)

theorem whenReadable_missing {f : State → Out State} {s : State} (h : ¬ s.supplied) :
    whenReadable f s = .refused .bufferUnreadable :=
  if_neg fun g => h (g.imp id headerReadable_iff.mp)

/-- START looks at the host's buffer, which beginning a transaction leaves. -/
theorem supplied_beginTransaction {s : State} : (beginTransaction s).supplied ↔ s.supplied := Iff.rfl

theorem onStart_eq {f : State → Out State} {s : State} (h : s.phase ≠ .busy) (hs : s.supplied) :
    onStart f s = f (beginTransaction s) := by
  have e := whenReadable_eq (f := f) (supplied_beginTransaction.mpr hs)
  unfold onStart
  cases hp : s.phase <;> simp_all

theorem onStart_missing {f : State → Out State} {s : State} (h : s.phase ≠ .busy)
    (hs : ¬ s.supplied) : onStart f s = .refused .bufferUnreadable := by
  have e := whenReadable_missing (f := f) (mt supplied_beginTransaction.mp hs)
  unfold onStart
  cases hp : s.phase <;> simp_all

theorem onStart_busy {f : State → Out State} {s : State} (h : s.phase = .busy) :
    onStart f s = .refused .startWhileBusy := by
  unfold onStart
  rw [h]

theorem outcomeOk_busy {g : Header} {s : State} (h : s.phase = .busy) :
    outcomeOk g s = .refused .startWhileBusy := onStart_busy h

theorem outcomeMalformed_busy {z : BitVec 3} {s : State} (h : s.phase = .busy) :
    outcomeMalformed z s = .refused .startWhileBusy := onStart_busy h

theorem outcomeTruncated_busy {n : Nat} {s : State} (h : s.phase = .busy) :
    outcomeTruncated n s = .refused .startWhileBusy := onStart_busy h

theorem onStart_inv {f : State → Out State} {s t : State} (h : onStart f s = .next t) :
    s.phase ≠ .busy ∧ s.supplied ∧ f (beginTransaction s) = .next t := by
  by_cases hp : s.phase = .busy
  · rw [onStart_busy hp] at h
    cases h
  by_cases hs : s.supplied
  · exact ⟨hp, hs, (onStart_eq hp hs).symm.trans h⟩
  · rw [onStart_missing hp hs] at h
    cases h

theorem checkLength_short {s : State} (h : s.inLen < 12) :
    checkLength s = .next (raiseTruncated s.inLen s) := if_pos h

theorem checkLength_long {s : State} (h : 12 ≤ s.inLen) :
    checkLength s = .next { s with lenOk := true } := if_neg (Nat.not_lt.mpr h)

theorem outcomeOk_long {h : Header} {s : State} (hp : s.phase ≠ .busy) (hl : 12 ≤ s.inLen)
    (hh : s.headerHeld) : outcomeOk h s = .next (finishOk h (beginTransaction s)) := by
  rw [outcomeOk, onStart_eq hp (.inr hh)]
  exact if_neg (Nat.not_lt.mpr hl)

theorem outcomeOk_short {h : Header} {s : State} (hp : s.phase ≠ .busy) (hl : s.inLen < 12) :
    outcomeOk h s = .next (raiseTruncated s.inLen (beginTransaction s)) := by
  rw [outcomeOk, onStart_eq hp (.inl hl)]
  exact if_pos hl

theorem outcomeMalformed_long {z : BitVec 3} {s : State} (hp : s.phase ≠ .busy)
    (hl : 12 ≤ s.inLen) (hh : s.headerHeld) :
    outcomeMalformed z s = .next (finishMalformed z (beginTransaction s)) := by
  rw [outcomeMalformed, onStart_eq hp (.inr hh)]
  exact if_neg (Nat.not_lt.mpr hl)

theorem outcomeMalformed_short {z : BitVec 3} {s : State} (hp : s.phase ≠ .busy)
    (hl : s.inLen < 12) :
    outcomeMalformed z s = .next (raiseTruncated s.inLen (beginTransaction s)) := by
  rw [outcomeMalformed, onStart_eq hp (.inl hl)]
  exact if_pos hl

theorem outcomeTruncated_eq {n : Nat} {s : State} (hp : s.phase ≠ .busy) (hs : s.supplied) :
    outcomeTruncated n s = .next (raiseTruncated n (beginTransaction s)) := by
  rw [outcomeTruncated, onStart_eq hp hs]

theorem remainderLen_long {n : Nat} (h : 12 ≤ n) : remainderLen n = n - 12 :=
  if_neg (Nat.not_lt.mpr h)

/-- One step of the sequence that leaves the decoder BUSY is followed by the rest. -/
theorem runSteps_cons {f : State → Out State} {fs : List (State → Out State)} {s t : State}
    (hf : f s = .next t) (ht : t.phase = .busy) : runSteps (f :: fs) s = runSteps fs t := by
  simp [runSteps, hf, ht]

/-- A step that ends in DONE replaces the rest of the sequence (60_exceptions.md R176). -/
theorem runSteps_done {f : State → Out State} {fs : List (State → Out State)} {s t : State}
    (hf : f s = .next t) (ht : t.phase = .done) : runSteps (f :: fs) s = .next t := by
  simp [runSteps, hf, ht]

/-- A run takes one step and goes on from there. -/
theorem core_run_succ (k : Nat) (s : State) :
    core.run (k + 1) s = andThen (step s) fun t => core.run k t := by
  have h : core.step s = step s := rfl
  have e := Host.Core.run.eq_2 core s k
  rw [h] at e
  refine e.trans ?_
  cases step s <;> rfl

/-- A run of `k + 1` steps is a run of `k` steps and one more. -/
theorem core_run_snoc (k : Nat) (s : State) :
    core.run (k + 1) s = andThen (core.run k s) step := by
  induction k generalizing s with
  | zero =>
    rw [core_run_succ]
    show andThen (step s) (fun t => .next t) = step s
    cases step s <;> rfl
  | succ k ih =>
    rw [core_run_succ, core_run_succ k s]
    cases step s with
    | next t => exact ih t
    | fault r => rfl
    | refused r => rfl
end Sys2Proof.Machine
end

