-- ==== Sys2Proof/Tests/Slice0.lean ====
section
/-! SUPPORT. Tests on one step each, and a witness for every statement with hypotheses. The expected
values come from spec/95_test_vectors.md (named by their ids) and spec/opcode_table.json. -/

namespace Sys2Proof.Tests

open Sys2Proof Sys2Proof.Machine

/-! ## Small states -/

/-- S1, the source's sample header. -/
def s1 : List Byte := [0x65, 0x8c, 0x81, 0x80, 0, 1, 0, 1, 0, 0, 0, 1]
/-- S3: S1 with the last reserved bit set. -/
def s3 : List Byte := [0x65, 0x8c, 0x81, 0x90, 0, 1, 0, 1, 0, 0, 0, 1]
/-- M4: both reserved code points and a remainder of 4 bytes. -/
def m4 : List Byte :=
  [0xbe, 0xef, 0x7a, 0x0a, 0, 2, 0, 3, 0, 4, 0, 5, 0xde, 0xad, 0xbe, 0xef]
/-- X2: the counts 255, 256, 32768, 32767. -/
def x2 : List Byte := [0xff, 0, 0, 0, 0, 0xff, 1, 0, 0x80, 0, 0x7f, 0xff]
/-- The header of S1. -/
def s1Header : Header :=
  ⟨0x658c, true, .query, false, false, true, true, .noError, 1, 1, 0, 1⟩
/-- T5. -/
def t5Header : Header :=
  ⟨0xabcd, true, .status, true, false, false, true, .refused, 2, 0, 1, 0⟩

/-- The reset state with a buffer presented by the host. -/
def loaded (l : List Byte) : State :=
  { State.reset with buf := Memory.fromBytes 0 l, inLen := l.length }
/-- A state inside a transaction whose length check has passed, with the cursor at `c`. -/
def busyAt (l : List Byte) (c : BitVec 7) : State :=
  { loaded l with phase := .busy, cur := c, lenOk := true }
/-- A loaded state with turns to come. -/
def withTurns (ts : List Turn) (s : State) : State := { s with agenda := ts }

/-- The outcome is a next state and `p` holds of it. -/
def nextIs {α : Type} (x : Out α) (p : α → Bool) : Bool :=
  match x with
  | .next t => p t
  | .fault _ => false
  | .refused _ => false
/-- The outcome is this fault. -/
def faultIs {α : Type} (x : Out α) (f : Fault) : Bool :=
  match x with
  | .next _ => false
  | .fault r => decide (r = f)
  | .refused _ => false
/-- The outcome is this refusal. -/
def refusedIs {α : Type} (x : Out α) (f : Refusal) : Bool :=
  match x with
  | .next _ => false
  | .fault _ => false
  | .refused r => decide (r = f)
/-- The decoder's answer is this instruction. -/
def decodesTo (sel : Sel) (bytes : List Byte) (i : Instr) : Bool :=
  match decode sel bytes with
  | .ok j => decide (j = i)
  | .error _ => false
/-- The decoder's answer is this rejection. -/
def rejects (sel : Sel) (bytes : List Byte) (r : Reject) : Bool :=
  match decode sel bytes with
  | .ok _ => false
  | .error q => decide (q = r)

/-! ## WellFormed: an ill-formed term for each check -/

theorem test_wf_opcode : Opcode.wf (.reserved 2) = false ∧ Opcode.wf (.reserved 3) = true := by decide
theorem test_wf_rcode : Rcode.wf (.reserved 5) = false ∧ Rcode.wf (.reserved 6) = true := by decide
theorem test_wf_header_opcode : Header.wf { s1Header with opcode := .reserved 1 } = false := by decide
theorem test_wf_header_rcode : Header.wf { s1Header with rcode := .reserved 0 } = false := by decide
theorem test_wf_instr : Instr.wf (.decodeOk { s1Header with opcode := .reserved 0 }) = false ∧
    Instr.wf (.encode { s1Header with rcode := .reserved 4 }) = false ∧
    Instr.wf (.encode s1Header) = true := by decide

/-! ## Decode: words written out from the table's encodings -/

/-- FLAGS16 rows: 16 bits `0qqq q000 0zzz rrrr` in bytes 2 and 3. -/
def flags (hi lo : Byte) : List Byte := [0xff, 0xff, hi, lo]

theorem test_decode_mapOpcode_low :
    decodesTo .mapOpcode (flags 0b10000111 0xff) .mapOpcode0 ∧
    decodesTo .mapOpcode (flags 0b00001000 0) .mapOpcode1 ∧
    decodesTo .mapOpcode (flags 0b00010000 0) .mapOpcode2 ∧
    decodesTo .mapOpcode (flags 0b00011000 0) .mapOpcode3 ∧
    decodesTo .mapOpcode (flags 0b00100000 0) .mapOpcode4 ∧
    decodesTo .mapOpcode (flags 0b10101111 0) .mapOpcode5 ∧
    decodesTo .mapOpcode (flags 0b00110000 0) .mapOpcode6 ∧
    decodesTo .mapOpcode (flags 0b00111000 0) .mapOpcode7 := by decide
theorem test_decode_mapOpcode_high :
    decodesTo .mapOpcode (flags 0b01000000 0) .mapOpcode8 ∧
    decodesTo .mapOpcode (flags 0b01001000 0) .mapOpcode9 ∧
    decodesTo .mapOpcode (flags 0b01010000 0) .mapOpcode10 ∧
    decodesTo .mapOpcode (flags 0b01011000 0) .mapOpcode11 ∧
    decodesTo .mapOpcode (flags 0b01100000 0) .mapOpcode12 ∧
    decodesTo .mapOpcode (flags 0b01101000 0) .mapOpcode13 ∧
    decodesTo .mapOpcode (flags 0b01110000 0) .mapOpcode14 ∧
    decodesTo .mapOpcode (flags 0b11111111 0xff) .mapOpcode15 := by decide
theorem test_decode_mapRcode_low :
    decodesTo .mapRcode (flags 0xff 0b11110000) .mapRcode0 ∧
    decodesTo .mapRcode (flags 0 0b10000001) .mapRcode1 ∧
    decodesTo .mapRcode (flags 0 0b00000010) .mapRcode2 ∧
    decodesTo .mapRcode (flags 0 0b00000011) .mapRcode3 ∧
    decodesTo .mapRcode (flags 0 0b00000100) .mapRcode4 ∧
    decodesTo .mapRcode (flags 0 0b00000101) .mapRcode5 ∧
    decodesTo .mapRcode (flags 0 0b00000110) .mapRcode6 ∧
    decodesTo .mapRcode (flags 0 0b00000111) .mapRcode7 := by decide
theorem test_decode_mapRcode_high :
    decodesTo .mapRcode (flags 0 0b00001000) .mapRcode8 ∧
    decodesTo .mapRcode (flags 0 0b00001001) .mapRcode9 ∧
    decodesTo .mapRcode (flags 0 0b00001010) .mapRcode10 ∧
    decodesTo .mapRcode (flags 0 0b00001011) .mapRcode11 ∧
    decodesTo .mapRcode (flags 0 0b00001100) .mapRcode12 ∧
    decodesTo .mapRcode (flags 0 0b00001101) .mapRcode13 ∧
    decodesTo .mapRcode (flags 0 0b00001110) .mapRcode14 ∧
    decodesTo .mapRcode (flags 0 0b00001111) .mapRcode15 := by decide
/-- Section 3.5, noisy neighbours: byte 2 is `ff`, byte 3 is `8f` with the zone in bits 6 to 4. -/
theorem test_decode_malformed :
    decodesTo .outcome [0x12, 0x34, 0xff, 0x9f, 0, 1, 0, 2, 0, 3, 0, 4] .decodeMalformed1 ∧
    decodesTo .outcome [0x12, 0x34, 0xff, 0xaf, 0, 1, 0, 2, 0, 3, 0, 4] .decodeMalformed2 ∧
    decodesTo .outcome [0x12, 0x34, 0xff, 0xbf, 0, 1, 0, 2, 0, 3, 0, 4] .decodeMalformed3 ∧
    decodesTo .outcome [0x12, 0x34, 0xff, 0xcf, 0, 1, 0, 2, 0, 3, 0, 4] .decodeMalformed4 ∧
    decodesTo .outcome [0x12, 0x34, 0xff, 0xdf, 0, 1, 0, 2, 0, 3, 0, 4] .decodeMalformed5 ∧
    decodesTo .outcome [0x12, 0x34, 0xff, 0xef, 0, 1, 0, 2, 0, 3, 0, 4] .decodeMalformed6 ∧
    decodesTo .outcome [0x12, 0x34, 0xff, 0xff, 0, 1, 0, 2, 0, 3, 0, 4] .decodeMalformed7 := by
  decide
/-- Section 4.1: short buffers with `f0` in byte 3; the length decides. -/
theorem test_decode_truncated :
    decodesTo .outcome [] .decodeTruncatedL0 ∧ decodesTo .outcome [0x65] .decodeTruncatedL1 ∧
    decodesTo .outcome [0x65, 0x8c] .decodeTruncatedL2 ∧
    decodesTo .outcome [0x65, 0x8c, 0x81] .decodeTruncatedL3 ∧
    decodesTo .outcome [0x65, 0x8c, 0x81, 0xf0] .decodeTruncatedL4 ∧
    decodesTo .outcome [0x65, 0x8c, 0x81, 0xf0, 0] .decodeTruncatedL5 ∧
    decodesTo .outcome [0x65, 0x8c, 0x81, 0xf0, 0, 1] .decodeTruncatedL6 ∧
    decodesTo .outcome [0x65, 0x8c, 0x81, 0xf0, 0, 1, 0] .decodeTruncatedL7 ∧
    decodesTo .outcome [0x65, 0x8c, 0x81, 0xf0, 0, 1, 0, 1] .decodeTruncatedL8 ∧
    decodesTo .outcome [0x65, 0x8c, 0x81, 0xf0, 0, 1, 0, 1, 0] .decodeTruncatedL9 ∧
    decodesTo .outcome [0x65, 0x8c, 0x81, 0xf0, 0, 1, 0, 1, 0, 0] .decodeTruncatedL10 ∧
    decodesTo .outcome [0x65, 0x8c, 0x81, 0xf0, 0, 1, 0, 1, 0, 0, 0] .decodeTruncatedL11 := by
  decide
theorem test_decode_ok : decodesTo .outcome s1 (.decodeOk s1Header) := by decide
/-- E2: every bit set but the reserved zone; X1: the more significant byte first. -/
theorem test_decode_ok_extremes :
    decodesTo .outcome [0xff, 0xff, 0xff, 0x8f, 0xff, 0xff, 0xff, 0xff, 0xff, 0xff, 0xff, 0xff]
      (.decodeOk ⟨0xffff, true, .reserved 15, true, true, true, true, .reserved 15,
        0xffff, 0xffff, 0xffff, 0xffff⟩) ∧
    decodesTo .outcome [0x00, 0x01, 0, 0, 0x02, 0x03, 0x04, 0x05, 0x06, 0x07, 0x08, 0x09]
      (.decodeOk ⟨1, false, .query, false, false, false, false, .noError, 515, 1029, 1543, 2057⟩) := by
  decide
/-- T5 and T6 read back. -/
theorem test_decode_encode :
    decodesTo .encode [0xab, 0xcd, 0x94, 0x85, 0, 2, 0, 0, 0, 1, 0, 0] (.encode t5Header) ∧
    decodesTo .encode [0x00, 0x01, 0x0b, 0x03, 1, 0, 0, 1, 0x80, 0, 0, 0xff]
      (.encode ⟨1, false, .inverseQuery, false, true, true, false, .nameError, 256, 1, 32768, 255⟩) := by
  decide
/-- Rows with mask 0 are found by their selector, whatever the bytes are. -/
theorem test_decode_maskless :
    decodesTo .decode [] .decode ∧ decodesTo .start [1] .start ∧ decodesTo .chkLen [] .chkLen ∧
    decodesTo .rdId s1 .rdId ∧ decodesTo .rdQr s1 .rdQr ∧ decodesTo .rdOpcode s1 .rdOpcode ∧
    decodesTo .rdAa s1 .rdAa ∧ decodesTo .rdTc s1 .rdTc ∧ decodesTo .rdRd s1 .rdRd ∧
    decodesTo .rdRa s1 .rdRa ∧ decodesTo .rdZ s3 .rdZ ∧ decodesTo .rdRcode s1 .rdRcode ∧
    decodesTo .rdQdcount s1 .rdQdcount ∧ decodesTo .rdAncount s1 .rdAncount ∧
    decodesTo .rdNscount s1 .rdNscount ∧ decodesTo .rdArcount s1 .rdArcount ∧
    decodesTo .assemble [] .assemble ∧ decodesTo .read1 [0xa5] .read1 ∧
    decodesTo .readn1 [0xa5] .readn1 ∧ decodesTo .readn3 [0xa5] .readn3 ∧
    decodesTo .readn4 [0xa5] .readn4 ∧ decodesTo .readn16 [0xa5, 0x3c] .readn16 := by decide
theorem test_decode_rejects :
    rejects .mapOpcode [0, 0, 0] .noFlagsWord ∧ rejects .mapRcode [] .noFlagsWord ∧
    rejects .encode [0x65, 0x8c] .noHeader ∧ rejects .encode s3 .reservedZone := by decide
/-- The table's numbering: no bits, FLAGS16, LEN, HDR96; and a width no encoding has. -/
theorem test_decodeTableWord :
    decodeTableWord 0 0 = some .decode ∧ decodeTableWord 16 0x7800 = some .mapOpcode15 ∧
    decodeTableWord 16 0x000f = some .mapRcode15 ∧ decodeTableWord 8 0 = some .mapRcode0 ∧
    decodeTableWord 16 0x0010 = some .decodeMalformed1 ∧
    decodeTableWord 24 0x658c81 = some .decodeTruncatedL3 ∧
    decodeTableWord 88 0 = some .decodeTruncatedL11 ∧ decodeTableWord 17 0 = none ∧
    decodeTableWord 104 0 = none := by decide
theorem test_decodeTableWord_header :
    decodeTableWord 96 0xffffff8fffffffffffffffff =
      some (.decodeOk ⟨0xffff, true, .reserved 15, true, true, true, true, .reserved 15,
        0xffff, 0xffff, 0xffff, 0xffff⟩) := by decide

/-! ## One step each -/

/-- P1, P3, P14 at READ1: the bit at the cursor, the cursor on by one, `acc` not written. -/
theorem test_read1 :
    nextIs (exec .read1 (busyAt [0xa5] 0)) (fun t => t.ret = some (.bit true) ∧ t.cur = 1) ∧
    nextIs (exec .read1 (busyAt [0xa5] 1)) (fun t => t.ret = some (.bit false) ∧ t.cur = 2) ∧
    nextIs (exec .read1 (busyAt [0xa5, 0x3c] 15))
      (fun t => t.ret = some (.bit false) ∧ t.cur = 16 ∧ t.acc = none) := by decide
/-- P17, Q8: past the last bit a fault; the last bit is read. -/
theorem test_read1_past_end :
    faultIs (exec .read1 (busyAt [0xa5] 8)) .readPastEnd ∧
    nextIs (exec .read1 (busyAt [0xa5] 7)) (fun t => t.ret = some (.bit true) ∧ t.cur = 8) := by decide
theorem test_readn1 :
    nextIs (exec .readn1 (busyAt [0xa5] 7))
      (fun t => t.ret = some (.value 1 1) ∧ t.cur = 8 ∧ t.acc = some 1) := by decide
/-- P7 and P12. -/
theorem test_readn3 :
    nextIs (exec .readn3 (busyAt [0xa5, 0x3c] 5)) (fun t => t.ret = some (.value 3 5) ∧ t.cur = 8) ∧
    nextIs (exec .readn3 (busyAt [0x80, 0x01] 7)) (fun t => t.ret = some (.value 3 0) ∧ t.cur = 10) := by
  decide
/-- P6 and P18: across a byte boundary; a full accumulator is cleared first. -/
theorem test_readn4 :
    nextIs (exec .readn4 (busyAt [0xa5, 0x3c] 6)) (fun t => t.ret = some (.value 4 4) ∧ t.cur = 10) ∧
    nextIs (exec .readn4 { busyAt [0xff, 0] 8 with acc := some 0xf })
      (fun t => t.ret = some (.value 4 0) ∧ t.cur = 12 ∧ t.acc = some 0) := by decide
/-- P8, P10 and P11. -/
theorem test_readn16 :
    nextIs (exec .readn16 (busyAt [0xa5, 0x3c] 0)) (fun t => t.ret = some (.value 16 0xa53c) ∧ t.cur = 16) ∧
    nextIs (exec .readn16 (busyAt [0xff, 0x00, 0xff] 4))
      (fun t => t.ret = some (.value 16 0xf00f) ∧ t.cur = 20) := by decide
/-- P16: 4 bits then 3 bits are the 7 bits. -/
theorem test_readn_composes :
    nextIs (andThen (readN 4 (busyAt [0xa5, 0x3c] 2)) fun p => readN 3 p.2)
      (fun p => p.1 = 2 ∧ p.2.cur = 9) ∧
    nextIs (readN 7 (busyAt [0xa5, 0x3c] 2)) (fun p => p.1 = 74 ∧ p.2.cur = 9) := by decide

/-- The steps of PROG1 and PROG4 that read 16 bits, and X2's counts. -/
theorem test_rdId :
    nextIs (exec .rdId (busyAt s1 0)) (fun t => t.id = some 0x658c ∧ t.cur = 16 ∧ t.readTrace = [1, 0]) := by
  decide
theorem test_rdQdcount :
    nextIs (exec .rdQdcount (busyAt x2 32)) (fun t => t.qdcount = some 255 ∧ t.cur = 48) := by decide
theorem test_rdAncount :
    nextIs (exec .rdAncount (busyAt x2 48)) (fun t => t.ancount = some 256 ∧ t.cur = 64) := by decide
theorem test_rdNscount :
    nextIs (exec .rdNscount (busyAt x2 64)) (fun t => t.nscount = some 32768 ∧ t.cur = 80) := by decide
theorem test_rdArcount :
    nextIs (exec .rdArcount (busyAt x2 80)) (fun t => t.arcount = some 32767 ∧ t.cur = 96) := by decide
/-- PROG1 and PROG4 differ in every flag but `aa`. -/
theorem test_rdQr :
    nextIs (exec .rdQr (busyAt s1 16)) (fun t => t.qr = some true ∧ t.cur = 17) ∧
    nextIs (exec .rdQr (busyAt m4 16)) (fun t => t.qr = some false) := by decide
theorem test_rdAa :
    nextIs (exec .rdAa (busyAt [0, 0, 0x04, 0] 21)) (fun t => t.aa = some true ∧ t.cur = 22) ∧
    nextIs (exec .rdAa (busyAt s1 21)) (fun t => t.aa = some false) := by decide
theorem test_rdTc :
    nextIs (exec .rdTc (busyAt m4 22)) (fun t => t.tc = some true ∧ t.cur = 23) ∧
    nextIs (exec .rdTc (busyAt s1 22)) (fun t => t.tc = some false) := by decide
theorem test_rdRd :
    nextIs (exec .rdRd (busyAt s1 23)) (fun t => t.rd = some true ∧ t.cur = 24) ∧
    nextIs (exec .rdRd (busyAt m4 23)) (fun t => t.rd = some false) := by decide
theorem test_rdRa :
    nextIs (exec .rdRa (busyAt s1 24)) (fun t => t.ra = some true ∧ t.cur = 25) ∧
    nextIs (exec .rdRa (busyAt m4 24)) (fun t => t.ra = some false) := by decide
theorem test_rdOpcode :
    nextIs (exec .rdOpcode (busyAt m4 17))
      (fun t => t.opcodeRaw = some 15 ∧ t.opcodeTag = some .reserved ∧ t.cur = 21) ∧
    nextIs (exec .rdOpcode (busyAt [0, 0, 0x90, 0] 17))
      (fun t => t.opcodeRaw = some 2 ∧ t.opcodeTag = some .status) := by decide
theorem test_rdRcode :
    nextIs (exec .rdRcode (busyAt m4 28))
      (fun t => t.rcodeRaw = some 10 ∧ t.rcodeTag = some .reserved ∧ t.cur = 32) ∧
    nextIs (exec .rdRcode (busyAt [0, 0, 0, 0x83] 28))
      (fun t => t.rcodeRaw = some 3 ∧ t.rcodeTag = some .nameError) := by decide
theorem test_rdZ_zero :
    nextIs (exec .rdZ (busyAt s1 25)) (fun t => t.z = some 0 ∧ t.cur = 28 ∧ t.phase = .busy) := by decide
/-- PROG3, step 9: the failure, the fields already read withdrawn, the cursor past all three bits. -/
theorem test_rdZ_malformed :
    nextIs (exec .rdZ { busyAt s3 25 with id := some 0x658c, qr := some true }) (fun t =>
      t.errPattern = some 1 ∧ t.errBitOffset = some 25 ∧ t.status = .malformed ∧ t.phase = .done ∧
      t.id = none ∧ t.qr = none ∧ t.cur = 28 ∧ t.acc = none ∧ t.z = none) := by decide

/-- START in DONE clears an earlier result (PROG4, step 0), and whatever a step run alone left in the
internal registers (10_state.md R31); in BUSY there is no such move (Q6). -/
theorem test_start :
    nextIs (exec .start { loaded s1 with
        phase := .done, status := .malformed, errPattern := some 1, cur := 28, acc := some 7, z := some 0 })
      (fun t => t.phase = .busy ∧ t.status = .none ∧ t.cur = 0 ∧ t.errPattern = none ∧
        t.acc = none ∧ t.z = none) ∧
    refusedIs (exec .start (busyAt s1 0)) .startWhileBusy := by decide
/-- PROG2, step 1, and Q1. -/
theorem test_chkLen :
    nextIs (exec .chkLen { busyAt (s1.take 10) 0 with lenOk := false }) (fun t =>
      t.errBitsRequired = some 96 ∧ t.errBitsAvailable = some 80 ∧ t.status = .truncated ∧
      t.phase = .done ∧ t.readTrace = []) ∧
    nextIs (exec .chkLen { busyAt s1 0 with lenOk := false }) (fun t =>
      t.phase = .busy ∧ t.status = .none ∧ t.cur = 0) := by decide
/-- PROG4, step 15; outside a transaction the internal registers hold nothing (10_state.md R31). -/
theorem test_assemble :
    nextIs (exec .assemble { busyAt m4 96 with acc := some 5, z := some 0 }) (fun t =>
      t.remOff = some 12 ∧ t.remLen = some 4 ∧ t.status = .ok ∧ t.phase = .done ∧ t.cur = 96 ∧
      t.acc = none ∧ t.z = none) := by decide
/-- S1 (PROG1's end state). -/
theorem test_decode_transaction_s1 :
    nextIs (exec .decode (loaded s1)) (fun t =>
      t.phase = .done ∧ t.status = .ok ∧ t.header = some s1Header ∧ t.remOff = some 12 ∧
      t.remLen = some 0 ∧ t.cur = 96 ∧ t.acc = none ∧ t.z = none) := by decide
/-- S3 (PROG3's end state): registers withdrawn, bytes 0 to 3 read and no others. -/
theorem test_decode_transaction_s3 :
    nextIs (exec .decode (loaded s3)) (fun t =>
      t.phase = .done ∧ t.status = .malformed ∧ t.id = none ∧ t.ra = none ∧ t.errPattern = some 1 ∧
      t.errBitOffset = some 25 ∧ t.cur = 28 ∧ t.readTrace = [3, 2, 1, 0]) := by decide
/-- DECODE.OK on M4's buffer (PROG4's end state). -/
theorem test_decodeOk :
    nextIs (step (withTurns [.run .outcome] (loaded m4))) (fun t =>
      t.status = .ok ∧ t.id = some 0xbeef ∧ t.opcodeTag = some .reserved ∧ t.rcodeRaw = some 10 ∧
      t.arcount = some 5 ∧ t.remLen = some 4) := by decide
/-- Section 3.5: payload `(z, 25)` for each zone. -/
theorem test_decodeMalformed :
    (∀ z ∈ [1, 2, 3, 4, 5, 6, 7], nextIs (exec (zoneRow z s1Header) (loaded s1))
      (fun t => t.status = .malformed ∧ t.errPattern = some z ∧ t.errBitOffset = some 25)) := by decide
/-- Section 4.1: payload `(96, 8 * L)` for each length. -/
theorem test_decodeTruncated :
    ∀ n < 12, nextIs (exec (truncatedRow n) (loaded (zeroBuf n)))
      (fun t => t.status = .truncated ∧ t.errBitsRequired = some 96 ∧
        t.errBitsAvailable = some (8 * n) ∧ t.cur = 0) := by decide
/-- Section 3.2 and 3.3, one assigned and one reserved code each. -/
theorem test_map :
    nextIs (exec .mapOpcode1 (loaded [])) (fun t => t.ret = some (.opcode .inverseQuery)) ∧
    nextIs (exec .mapOpcode3 (loaded [])) (fun t => t.ret = some (.opcode (.reserved 3))) ∧
    nextIs (exec .mapRcode5 (loaded [])) (fun t => t.ret = some (.rcode .refused)) ∧
    nextIs (exec .mapRcode6 (loaded [])) (fun t => t.ret = some (.rcode (.reserved 6))) := by decide
/-- T5; T8: an ill-formed header encodes, and reads back as another. -/
theorem test_encode :
    nextIs (exec (.encode t5Header) (loaded [])) (fun t => t.ret = some (.bytes
      [0xab, 0xcd, 0x94, 0x85, 0, 2, 0, 0, 0, 1, 0, 0])) ∧
    headerOf (byteAt (encodeHeader { s1Header with opcode := .reserved 1 })) =
      { s1Header with opcode := .inverseQuery } := by decide

/-! ## The host -/

/-- Q3, Q4, Q5: ports that show nothing, each beside one that does. -/
theorem test_host_reads :
    faultIs (step (withTurns [.host (.read .id)] (loaded s1))) (.readOfNone .id) ∧
    faultIs (andThen (exec .decode (loaded s3)) fun t => step (withTurns [.host (.read .id)] t))
      (.readOfNone .id) ∧
    nextIs (andThen (exec .decode (loaded s3)) fun t => step (withTurns [.host (.read .errPattern)] t))
      (fun t => t.hostData = some (.num 1)) ∧
    faultIs (andThen (exec .decode (loaded [])) fun t => step (withTurns [.host (.read .remLen)] t))
      (.readOfNone .remLen) ∧
    nextIs (step (withTurns [.host (.read .busy)] (busyAt s1 0)))
      (fun t => t.hostData = some (.flag true)) := by decide
/-- Q7. -/
theorem test_host_pokes :
    refusedIs (step (withTurns [.host (.poke 3 0x90)] (busyAt s1 0))) .bufferChanged ∧
    nextIs (step (withTurns [.host (.poke 12 0xff)] (busyAt s1 0)))
      (fun t => Memory.get t.buf 12 = some 0xff ∧ t.phase = .busy) := by decide
/-- The reset event in BUSY. -/
theorem test_host_rst :
    nextIs (step (withTurns [.host .rst] (busyAt s1 16)))
      (fun t => t.phase = .idle ∧ t.cur = 0 ∧ t.inLen = 12) := by decide
/-- U7: `in_len` 12 with a byte of 0 to 11 missing; every row that starts refuses, where a shorter
`in_len` on the same bytes runs. -/
theorem test_start_unreadable :
    (∀ i ∈ [Instr.start, .decode, .decodeOk s1Header, .decodeMalformed1, .decodeTruncatedL3],
      refusedIs (exec i { loaded (s3.take 4) with inLen := 12 }) .bufferUnreadable) ∧
    nextIs (exec .decode { loaded (s3.take 4) with inLen := 11 })
      (fun t => t.errBitsAvailable = some 88) := by decide
/-- A cursor that is no step's: nothing runs. -/
theorem test_off_sequence : faultIs (step (busyAt s1 5)) .cursorOffSequence := by decide
/-- A byte below `in_len` that the host has not supplied. -/
theorem test_unreadable :
    refusedIs (exec .read1 { busyAt [] 0 with inLen := 1 }) .bufferUnreadable ∧
    refusedIs (step (withTurns [.run .encode] (loaded s3))) (.undecodable .reservedZone) := by decide
/-- The block's first table row as the first step after reset. -/
theorem test_withFetchWord :
    nextIs (step (State.reset.withFetchWord 96 0xbeef7a0a0002000300040005))
      (fun t => t.status = .ok ∧ t.id = some 0xbeef ∧ t.agenda = []) ∧
    nextIs (step (State.reset.withFetchWord 16 0x1800))
      (fun t => t.ret = some (.opcode (.reserved 3))) := by decide

/-! ## Witnesses: every hypothesis of every statement is met -/

/-- Every offset below a presented buffer's length holds a byte. -/
theorem loaded_held (l : List Byte) {a : Nat} (h : a < l.length) :
    (Memory.get (loaded l).buf a).isSome = true := by
  have := Memory.get_fromBytes 0 l a
  simp only [Nat.zero_add] at this
  simp [loaded, this, h]

theorem canRead_busyAt (l : List Byte) (c : BitVec 7) (n : Nat) (h : c.toNat + n ≤ 127)
    (hl : c.toNat + n ≤ 8 * l.length) : (busyAt l c).canRead n :=
  ⟨h, hl, fun _ _ ha => loaded_held l (by simp only [busyAt] at ha; omega)⟩

theorem headerHeld_loaded (l : List Byte) (h : 12 ≤ l.length) : (loaded l).headerHeld :=
  fun _ ha => loaded_held l (by omega)

/-- A next outcome, from its test. -/
theorem next_of {x : Out State} {p : State → Bool} (h : nextIs x p = true) :
    ∃ t, x = .next t ∧ p t = true := by
  cases x with
  | next t => exact ⟨t, rfl, h⟩
  | fault r => cases h
  | refused r => cases h

/-- 16 bytes: as many as the 7-bit cursor can reach. -/
def b16 : List Byte := [0xa5, 0x3c, 0, 0, 0, 0, 0, 0, 0, 0, 0, 0, 0, 0, 0, 1]
/-- A DONE state with an earlier result. -/
def doneOk (l : List Byte) : State :=
  { loaded l with
    phase := .done, status := .ok, cur := 96, id := some 0x1234, remOff := some 12, remLen := some 9 }

theorem witness_ResetHoldsNothing : Port.errBitOffset ≠ .busy ∧ Port.errBitOffset ≠ .done := by decide

theorem witness_RstFromAnyState : ∀ p ∈ [Phase.idle, .busy, .done],
    (withTurns [.host .rst] { busyAt s1 16 with phase := p }).agenda = .host .rst :: [] := by decide

theorem witness_StepRunsInstruction_run :
    (withTurns [.run .mapOpcode] (loaded m4)).agenda = .run .mapOpcode :: [] ∧
    nextIs (fetchBytes .mapOpcode (loaded m4)) (fun l => decodesTo .mapOpcode l .mapOpcode15) := by decide
theorem witness_StepRunsInstruction_decoder :
    (withTurns [.decoder] (busyAt s1 96)).agenda = .decoder :: [] ∧
    sequencer (withTurns [.decoder] (busyAt s1 96)) = .instr .assemble ∧
    (busyAt s1 0).agenda = [] ∧ sequencer (busyAt s1 0) = .instr .rdId ∧
    (loaded s1).phase ≠ .busy ∧ (loaded s1).agenda = [] ∧
    (withTurns [.host .start] (loaded s1)).agenda = .host .start :: [] ∧
    (withTurns [.decoder] (doneOk s1)).phase ≠ .busy ∧
    (withTurns [.decoder] (doneOk s1)).agenda = .decoder :: [] := by decide

theorem witness_TableWordRuns : decodeTableWord 16 0x7800 = some .mapOpcode15 ∧
    decodeTableWord 0 0 = some .decode := by decide

theorem witness_SequenceOrder : ({ busyAt s1 0 with lenOk := false } : State).phase = .busy ∧
    ({ busyAt s1 0 with lenOk := false } : State).lenOk = false ∧
    ∀ c ∈ ([0, 16, 17, 21, 22, 23, 24, 25, 28, 32, 48, 64, 80, 96] : List (BitVec 7)),
      (busyAt s1 c).phase = .busy ∧ (busyAt s1 c).lenOk = true ∧ (busyAt s1 c).cur = c := by decide

theorem witness_ResultStays :
    (doneOk s1).phase = .done ∧ (doneOk s1).turn = .decoder ∧
    nextIs (step (doneOk s1)) (fun _ => true) ∧
    (withTurns [.host (.read .id)] (doneOk s1)).turn = .host (.read .id) ∧
    nextIs (step (withTurns [.host (.read .id)] (doneOk s1))) (fun _ => true) ∧
    nextIs (step (withTurns [.host (.load m4)] (doneOk s1))) (fun _ => true) ∧
    nextIs (step (withTurns [.run .mapOpcode] (doneOk s1))) (fun _ => true) ∧
    nextIs (step (withTurns [.run .mapRcode] (doneOk s1))) (fun _ => true) ∧
    nextIs (step (withTurns [.run .encode] (doneOk s1))) (fun _ => true) := by decide

theorem witness_DecodeOfEncode : Instr.wf (.decodeOk t5Header) = true ∧
    Instr.wf (.encode { t5Header with opcode := .reserved 3, rcode := .reserved 6 }) = true := by decide

theorem witness_FlagsRowsApply : 4 ≤ (flags 0 0).length ∧ 12 ≤ s3.length ∧ (1 : BitVec 3) ≠ 0 ∧
    (7 : BitVec 3) ≠ 0 := by decide

theorem witness_ThreeClasses : (s1.take 11).length < 12 ∧ ([] : List Byte).length < 12 ∧
    12 ≤ s3.length ∧ byteAt s3 3 &&& 0x70 ≠ 0 ∧ 12 ≤ s1.length ∧ byteAt s1 3 &&& 0x70 = 0 := by decide

theorem witness_CodeMappings : 3 ≤ (3 : BitVec 4).toNat ∧ 3 ≤ (15 : BitVec 4).toNat ∧
    6 ≤ (6 : BitVec 4).toNat ∧ 6 ≤ (15 : BitVec 4).toNat ∧ (5 : BitVec 4).toNat < 6 ∧
    mapOpcode 4 = mapOpcode 4 := by decide

theorem witness_MapUnmap : Opcode.wf (.reserved 3) = true ∧ Rcode.wf (.reserved 15) = true := by decide

theorem witness_DecodedHeadersWellFormed :
    ({ s1Header with opcode := .reserved 3 } : Header).opcode = .reserved 3 ∧
    ({ s1Header with rcode := .reserved 6 } : Header).rcode = .reserved 6 := by decide

theorem witness_ViolatingBits : 2 < 3 ∧ (4 : BitVec 3) ≠ 0 ∧ 4 ≤ (4 : BitVec 3).toNat ∧
    2 ≤ (2 : BitVec 3).toNat ∧ (3 : BitVec 3).toNat < 4 ∧ (1 : BitVec 3).toNat < 2 := by decide

/-- For Read1Reads and ReadnReads, at the ends of the range. The next one is for ReadnReads too. -/
theorem witness_canRead_1 : (busyAt [0xa5] 0).canRead 1 ∧ (busyAt [0xa5] 7).canRead 1 ∧
    (busyAt b16 126).canRead 1 :=
  ⟨canRead_busyAt _ _ _ (by decide) (by decide), canRead_busyAt _ _ _ (by decide) (by decide),
   canRead_busyAt _ _ _ (by decide) (by decide)⟩
theorem witness_canRead_3_4_16 : (busyAt [0xa5] 5).canRead 3 ∧ (busyAt b16 124).canRead 3 ∧
    (busyAt [0xa5] 4).canRead 4 ∧ (busyAt b16 123).canRead 4 ∧ (busyAt [0xa5, 0x3c] 0).canRead 16 ∧
    (busyAt b16 111).canRead 16 :=
  ⟨canRead_busyAt _ _ _ (by decide) (by decide), canRead_busyAt _ _ _ (by decide) (by decide),
   canRead_busyAt _ _ _ (by decide) (by decide), canRead_busyAt _ _ _ (by decide) (by decide),
   canRead_busyAt _ _ _ (by decide) (by decide), canRead_busyAt _ _ _ (by decide) (by decide)⟩

theorem witness_OpenValuesComplete : (busyAt b16 127).cur = 127 ∧ 16 ≤ (busyAt b16 127).inLen ∧
    (Memory.get (busyAt b16 127).buf 15).isSome = true ∧
    (∀ p ∈ [((127 : BitVec 7), 1), (125, 3), (124, 4), (112, 16)], (busyAt b16 p.1).cur.toNat + p.2 = 128 ∧
      16 ≤ (busyAt b16 p.1).inLen ∧
      ∀ a, a < 16 → (Memory.get (busyAt b16 p.1).buf a).isSome = true) ∧
    (busyAt (s1.take 11) 0).inLen < 12 ∧ (busyAt [] 0).inLen < 12 := by decide

theorem witness_ReadnClosedForm : 1 ≤ 16 ∧ (busyAt [0xa5, 0x3c] 0).canRead 16 ∧
    (busyAt [0xa5, 0x3c] 0).readTrace = [] :=
  ⟨by decide, canRead_busyAt _ _ _ (by decide) (by decide), rfl⟩
theorem witness_ReadsCompose : 4 + 3 ≤ 16 ∧ (busyAt [0xa5, 0x3c] 2).canRead (4 + 3) ∧
    16 + 0 ≤ 16 ∧ (busyAt [0xa5, 0x3c] 0).canRead (16 + 0) :=
  ⟨by decide, canRead_busyAt _ _ _ (by decide) (by decide), by decide,
   canRead_busyAt _ _ _ (by decide) (by decide)⟩

theorem witness_CursorPairForm : (95 : BitVec 7).toNat < 96 ∧ (96 : BitVec 7).toNat ≤ 96 := by decide

/-- For each width: the first byte the read comes to is not supplied, or its second is not; and one bit
short, every byte before the end supplied. -/
theorem witness_ReadsStop :
    (∀ p ∈ [((7 : BitVec 7), 1), (7, 3), (5, 4), (0, 16)],
      p.1.toNat / 8 ≤ 0 ∧ 8 * 0 < p.1.toNat + p.2 ∧
      0 < ({ busyAt [] p.1 with inLen := 16 } : State).inLen ∧
      Memory.get ({ busyAt [] p.1 with inLen := 16 } : State).buf 0 = none) ∧
    (∀ p ∈ [((7 : BitVec 7), 3), (5, 4), (0, 16)], p.1.toNat / 8 ≤ 1 ∧ 8 * 1 < p.1.toNat + p.2 ∧
      1 < ({ busyAt [0xa5] p.1 with inLen := 16 } : State).inLen ∧
      Memory.get ({ busyAt [0xa5] p.1 with inLen := 16 } : State).buf 1 = none) ∧
    (∀ p ∈ [((8 : BitVec 7), 1), (6, 3), (5, 4)], (busyAt [0xa5] p.1).inLen < 16 ∧
      8 * (busyAt [0xa5] p.1).inLen < (busyAt [0xa5] p.1).cur.toNat + p.2) ∧
    (busyAt [0xa5, 0x3c] 1).inLen < 16 ∧
    8 * (busyAt [0xa5, 0x3c] 1).inLen < (busyAt [0xa5, 0x3c] 1).cur.toNat + 16 ∧
    (busyAt (b16.take 15) 127).inLen < 16 ∧
    8 * (busyAt (b16.take 15) 127).inLen < (busyAt (b16.take 15) 127).cur.toNat + 16 ∧
    (∀ l ∈ [[(0xa5 : Byte)], [0xa5, 0x3c], b16.take 15], ∀ a, a < l.length →
      (Memory.get (loaded l).buf a).isSome = true) :=
  ⟨by decide, by decide, by decide, by decide, by decide, by decide, by decide,
   fun l _ _ h => loaded_held l h⟩

theorem witness_HalfSteps : ∀ c ∈ ([0, 32, 48, 64, 80] : List (BitVec 7)),
    (busyAt s1 c).canRead 16 ∧ (busyAt s1 c).cur = c := by
  intro c hc
  refine ⟨canRead_busyAt _ _ _ ?_ ?_, rfl⟩ <;> revert c <;> decide
theorem witness_FlagSteps : ∀ c ∈ ([16, 21, 22, 23, 24] : List (BitVec 7)),
    (busyAt s1 c).canRead 1 ∧ (busyAt s1 c).cur = c := by
  intro c hc
  refine ⟨canRead_busyAt _ _ _ ?_ ?_, rfl⟩ <;> revert c <;> decide
theorem witness_CodeSteps : ∀ c ∈ ([17, 28] : List (BitVec 7)),
    (busyAt s1 c).canRead 4 ∧ (busyAt s1 c).cur = c := by
  intro c hc
  refine ⟨canRead_busyAt _ _ _ ?_ ?_, rfl⟩ <;> revert c <;> decide
theorem witness_ZoneStep : (busyAt s1 25).canRead 3 ∧ (busyAt s3 25).canRead 3 ∧
    wbits (busyAt s1 25).byte 25 3 = 0 ∧ (1 : BitVec 3).toNat = wbits (busyAt s3 25).byte 25 3 ∧
    (1 : BitVec 3) ≠ 0 ∧ (busyAt s3 25).cur = 25 :=
  ⟨canRead_busyAt _ _ _ (by decide) (by decide), canRead_busyAt _ _ _ (by decide) (by decide),
   by decide, by decide, by decide, by decide⟩

theorem witness_FlagsSteerNothing :
    (busyAt s1 0).sameControl { busyAt s1 0 with status := .malformed, qr := some true, id := some 9 } ∧
    ∀ i ∈ [Instr.chkLen, .rdId, .rdQr, .rdOpcode, .rdAa, .rdTc, .rdRd, .rdRa, .rdZ, .rdRcode,
      .rdQdcount, .rdAncount, .rdNscount, .rdArcount, .assemble],
      nextIs (exec i (busyAt s1 0)) (fun _ => true) :=
  ⟨⟨rfl, rfl, rfl, rfl, rfl, rfl, rfl, rfl, rfl⟩, by decide⟩

/-- A buffer of 12 bytes of which the host has supplied the first four: no START accepts it. -/
def fourOf (l : List Byte) : State := { loaded (l.take 4) with inLen := 12 }
theorem fourOf_missing (l : List Byte) : ¬ (fourOf l).headerHeld := fun h => by
  have := Memory.get_fromBytes 0 (l.take 4) 11
  have h11 := h 11 (by decide)
  simp [fourOf, loaded] at h11 this
  rw [this] at h11
  simp at h11
theorem fourOf_not_supplied (l : List Byte) : ¬ (fourOf l).supplied :=
  fun h => h.elim (by simp [fourOf]) (fourOf_missing l)
theorem witness_StartBegins : (loaded s1).phase ≠ .busy ∧ (doneOk s1).phase ≠ .busy ∧
    (loaded s1).supplied ∧ (doneOk s1).supplied ∧ (loaded []).supplied ∧
    (fourOf s3).phase ≠ .busy ∧ ¬ (fourOf s3).supplied :=
  ⟨by decide, by decide, .inr (headerHeld_loaded _ (by decide)),
   .inr (headerHeld_loaded s1 (by decide)), .inl (by decide), by decide, fourOf_not_supplied _⟩
theorem witness_StartInBusyRefused : (busyAt s1 0).phase = .busy := rfl
theorem witness_LengthCheck : (loaded []).inLen < 12 ∧ (loaded (s1.take 11)).inLen < 12 ∧
    12 ≤ (loaded s1).inLen := by decide
theorem witness_AssemblePresents : 12 ≤ (busyAt s1 96).inLen := by decide

/-- The three classes of DECODE, from IDLE, and a buffer that is refused; used for the closed form and the
outcome rows. -/
theorem witness_DecodeClosedForm : (loaded s1).phase ≠ .busy ∧ (loaded (s1.take 11)).inLen < 12 ∧
    12 ≤ (loaded s3).inLen ∧ (loaded s3).headerHeld ∧ ((loaded s3).byte 3).extractLsb' 4 3 ≠ 0 ∧
    12 ≤ (fourOf s3).inLen ∧ ¬ (fourOf s3).headerHeld ∧
    12 ≤ (loaded s1).inLen ∧ (loaded s1).headerHeld ∧ ((loaded s1).byte 3).extractLsb' 4 3 = 0 :=
  ⟨by decide, by decide, by decide, headerHeld_loaded _ (by decide), by decide, by decide,
   fourOf_missing _, by decide, headerHeld_loaded _ (by decide), by decide⟩
/-- The same with `start` on the agenda; used for the step machine and the step counts. -/
theorem witness_StepMachineAgrees : ∀ l ∈ [s1, s3, m4],
    (withTurns [.host .start] (loaded l)).phase ≠ .busy ∧
    (withTurns [.host .start] (loaded l)).agenda = [.host .start] ∧
    12 ≤ (withTurns [.host .start] (loaded l)).inLen ∧
    (withTurns [.host .start] (loaded l)).headerHeld := by
  intro l hl
  refine ⟨by simp [withTurns, loaded, State.reset], rfl, ?_, headerHeld_loaded l ?_⟩ <;>
    revert l <;> decide
/-- For the step machine: a buffer whose bytes 0 to 11 are not all there. -/
theorem witness_StepMachineAgrees_missing :
    (withTurns [.host .start] (fourOf s3)).phase ≠ .busy ∧
    (withTurns [.host .start] (fourOf s3)).agenda = [.host .start] ∧
    12 ≤ (withTurns [.host .start] (fourOf s3)).inLen ∧
    ¬ (withTurns [.host .start] (fourOf s3)).headerHeld :=
  ⟨by decide, by decide, by decide, fourOf_missing _⟩
theorem witness_StepCounts : (withTurns [.host .start] (loaded (s1.take 11))).inLen < 12 ∧
    (withTurns [.host .start] (loaded (s1.take 11))).supplied ∧
    zoneOf (withTurns [.host .start] (loaded s3)).byte ≠ 0 ∧
    (withTurns [.host .start] (loaded s3)).supplied ∧
    zoneOf (withTurns [.host .start] (loaded s1)).byte = 0 ∧
    (withTurns [.host .start] (loaded s1)).supplied :=
  ⟨by decide, .inl (by decide), by decide, .inr (headerHeld_loaded s3 (by decide)), by decide,
   .inr (headerHeld_loaded s1 (by decide))⟩
theorem witness_OutcomeRowsAgree :
    nextIs (fetchBytes .outcome (loaded m4)) (fun l => match decode .outcome l with
      | .ok i => decide (i = .decodeOk ⟨0xbeef, false, .reserved 15, false, true, false, false,
          .reserved 10, 2, 3, 4, 5⟩)
      | .error _ => false) ∧
    nextIs (fetchBytes .outcome (loaded s3)) (fun l => decodesTo .outcome l .decodeMalformed1) ∧
    nextIs (fetchBytes .outcome (loaded (s1.take 10)))
      (fun l => decodesTo .outcome l .decodeTruncatedL10) := by decide
/-- For OutcomeOkRow, OutcomeMalformedRows and OutcomeTruncatedRows. -/
theorem witness_OutcomeOkRow : t5Header.wf = true ∧ (doneOk s1).phase ≠ .busy ∧
    12 ≤ (doneOk s1).inLen ∧ (doneOk s1).headerHeld ∧ (doneOk s1).supplied ∧
    (loaded (s1.take 11)).inLen < 12 ∧ (loaded (s1.take 11)).supplied ∧ 12 ≤ (fourOf s3).inLen ∧
    ¬ (fourOf s3).headerHeld ∧ ¬ (fourOf s3).supplied :=
  ⟨by decide, by decide, by decide, headerHeld_loaded s1 (by decide),
   .inr (headerHeld_loaded s1 (by decide)), by decide, .inl (by decide), by decide, fourOf_missing _,
   fourOf_not_supplied _⟩
/-- For OutcomesExactly and BytesReadByOutcome, each outcome. -/
theorem witness_OutcomesExactly : ∀ l ∈ [[], s1.take 11, s1, s3, m4],
    ∃ t, exec .decode (loaded l) = .next t :=
  fun l hl => by
    have h : nextIs (exec .decode (loaded l)) (fun _ => true) = true := by revert l; decide
    exact (next_of h).imp fun _ h => h.1
/-- Two machines with different pasts and tails, one header. -/
theorem witness_NothingSurvives : (loaded m4).phase ≠ .busy ∧ (loaded m4).supplied ∧
    ({ doneOk m4 with buf := Memory.set (doneOk m4).buf 40 1 } : State).phase ≠ .busy ∧
    ({ doneOk m4 with buf := Memory.set (doneOk m4).buf 40 1 } : State).inLen = (loaded m4).inLen ∧
    ({ doneOk m4 with buf := Memory.set (doneOk m4).buf 40 1 } : State).buf ≠ (loaded m4).buf ∧
    (∀ a, a < (loaded m4).inLen →
      Memory.get ({ doneOk m4 with buf := Memory.set (doneOk m4).buf 40 1 } : State).buf a =
        Memory.get (loaded m4).buf a) ∧
    (∃ t, exec .decode (loaded m4) = .next t) :=
  ⟨by decide, .inr (headerHeld_loaded _ (by decide)), by decide, rfl, by decide, fun a ha =>
    Memory.get_set_other _ _ (by
    have : (loaded m4).inLen = 16 := rfl
    omega), witness_OutcomesExactly m4 (by simp)⟩
theorem witness_TailIrrelevant : (loaded (s1 ++ [1, 2])).phase ≠ .busy ∧ (doneOk s1).phase ≠ .busy ∧
    (∃ t, exec .decode (loaded s1) = .next t) ∧ 12 ≤ (loaded s1).inLen ∧
    12 ≤ (loaded (s1 ++ [1, 2])).inLen ∧
    (∀ a, a < 12 → Memory.get (loaded (s1 ++ [1, 2])).buf a = Memory.get (loaded s1).buf a) ∧
    zoneOf (loaded m4).byte = zoneOf (loaded s1).byte ∧
    (loaded [1, 2]).inLen < 12 ∧ (loaded [1, 2]).inLen = (loaded [3, 4]).inLen :=
  ⟨by decide, by decide, witness_OutcomesExactly s1 (by simp), by decide, by decide, by decide,
   by decide, by decide, by decide⟩
theorem witness_RoundTrip : t5Header.wf = true ∧
    (loaded (encodeHeader t5Header ++ [7])).phase ≠ .busy ∧
    (loaded (encodeHeader t5Header ++ [7])).buf = Memory.fromBytes 0 (encodeHeader t5Header ++ [7]) ∧
    (loaded (encodeHeader t5Header ++ [7])).inLen = 12 + [(7 : Byte)].length ∧
    12 ≤ (loaded m4).inLen ∧ (loaded m4).headerHeld ∧ zoneOf (loaded m4).byte = 0 :=
  ⟨by decide, by decide, rfl, by decide, by decide, headerHeld_loaded _ (by decide), by decide⟩

/-! ### States with a result, and states of the invariant -/

/-- The end of PROG1, as the rules give it. -/
def endS1 : State :=
  { loaded s1 with
    phase := .done, status := .ok, cur := 96, id := some 0x658c, qr := some true
    opcodeRaw := some 0, opcodeTag := some .query, aa := some false, tc := some false
    rd := some true, ra := some true, rcodeRaw := some 0, rcodeTag := some .noError
    qdcount := some 1, ancount := some 1, nscount := some 0, arcount := some 1
    remOff := some 12, remLen := some 0, lenOk := true
    readTrace := [11, 10, 9, 8, 7, 6, 5, 4, 3, 2, 1, 0] }
/-- The end of PROG2. -/
def endS2 : State :=
  { loaded (s1.take 10) with
    phase := .done, status := .truncated, errBitsRequired := some 96, errBitsAvailable := some 80 }
/-- The end of PROG3. -/
def endS3 : State :=
  { loaded s3 with
    phase := .done, status := .malformed, cur := 28, errPattern := some 1, errBitOffset := some 25
    lenOk := true, readTrace := [3, 2, 1, 0] }
/-- PROG1 before its step 15. -/
def beforeAssemble : State :=
  { endS1 with phase := .busy, status := .none, remOff := none, remLen := none, z := some 0 }
/-- PROG1 after its step 0. -/
def afterStart : State := { loaded s1 with phase := .busy }

theorem endS1_result : endS1.resultOk s1Header 0 := by
  simp [State.resultOk, State.holdsHeader, State.noTruncated, State.noMalformed, State.noInternal]
  decide
theorem witness_PortsShowResults : endS1.resultOk s1Header 0 ∧ endS2.resultTruncated 10 ∧
    endS3.resultMalformed 1 ∧ (busyAt s1 0).phase ≠ .done ∧ Port.id ≠ .busy ∧ Port.id ≠ .done := by
  refine ⟨endS1_result, ?_, ?_, ?_, ?_, ?_⟩
  all_goals
    first
      | decide
      | (simp [State.resultTruncated, State.resultMalformed, State.noHeader, State.noRemainder,
          State.noTruncated, State.noMalformed, State.noInternal]; decide)

theorem witness_HostReads :
    (withTurns [.host (.read .id)] endS1).agenda = .host (.read .id) :: [] ∧
    portValue .id (withTurns [.host (.read .id)] endS1) = some (.num 0x658c) ∧
    portValue .id (withTurns [.host (.read .id)] endS3) = none := by decide
theorem witness_BufferStability :
    (withTurns [.host (.poke 11 9)] (busyAt s1 0)).agenda = .host (.poke 11 9) :: [] ∧
    (busyAt s1 0).phase = .busy ∧ Memory.get (busyAt s1 0).buf 11 ≠ some 9 ∧
    Memory.get (busyAt s1 0).buf 11 = some 1 ∧ 12 ≤ 12 ∧ (loaded s1).phase ≠ .busy ∧
    (withTurns [.host (.setLen 13)] (busyAt s1 0)).agenda = .host (.setLen 13) :: [] ∧
    13 ≠ (busyAt s1 0).inLen ∧ 12 = (busyAt s1 0).inLen ∧
    (withTurns [.host (.load m4)] (loaded s1)).agenda = .host (.load m4) :: [] := by decide
/-- A new buffer while BUSY: another length; another byte below offset 12; neither. -/
theorem witness_BufferStability_load :
    (withTurns [.host (.load m4)] (busyAt s1 0)).agenda = .host (.load m4) :: [] ∧
    m4.length ≠ (busyAt s1 0).inLen ∧ s3.length = (busyAt s1 0).inLen ∧ 3 < 12 ∧
    s3[3]? ≠ Memory.get (busyAt s1 0).buf 3 ∧ (s1 ++ [7]).length = (busyAt (s1 ++ [9]) 0).inLen ∧
    (∀ a, a < 12 → (s1 ++ [7])[a]? = Memory.get (busyAt (s1 ++ [9]) 0).buf a) := by decide

/-- For NoInstructionWritesMemory, PrimitivesAndFunctionsFrame and PhaseAndStatusWrites: an instruction
of each shape, and each writing move of the host, completes. -/
theorem witness_frames :
    (∀ i ∈ [Instr.read1, .readn16, .mapOpcode3, .mapRcode7, .encode t5Header, .decode,
      .decodeOk t5Header, .decodeMalformed1, .decodeTruncatedL0],
      nextIs (exec i (loaded s1)) (fun _ => true)) ∧
    (∀ i ∈ [Instr.chkLen, .rdZ, .rdId, .assemble], nextIs (exec i (busyAt s3 25)) (fun _ => true)) ∧
    (∀ i ∈ [Instr.chkLen, .start], nextIs (exec i (loaded [])) (fun _ => true)) ∧
    (∀ m ∈ [HostMove.start, .rst, .load m4, .poke 0 0, .setLen 3],
      nextIs (hostMove m (loaded s1)) (fun _ => true)) := by decide

theorem witness_MemoryExtensional :
    Memory.wf (Memory.set (Memory.set [] 9 1) 3 2) = true ∧
    Memory.wf (Memory.set (Memory.set [] 3 2) 9 1) = true ∧
    (∀ a, Memory.get (Memory.set (Memory.set [] 9 1) 3 2) a =
      Memory.get (Memory.set (Memory.set [] 3 2) 9 1) a) :=
  ⟨by decide, by decide, fun _ => rfl⟩
theorem witness_StepKeepsCanonicalMemory :
    Memory.wf (withTurns [.host (.poke 5 7)] (loaded s1)).buf = true ∧
    nextIs (step (withTurns [.host (.poke 5 7)] (loaded s1))) (fun _ => true) := by decide

theorem inv_loaded : Inv (loaded s1) :=
  ⟨by decide, by decide, by decide, ⟨rfl, ⟨rfl, rfl, rfl, rfl, rfl, rfl, rfl, rfl, rfl, rfl, rfl, rfl,
    rfl, rfl⟩, ⟨rfl, rfl⟩, ⟨rfl, rfl⟩, ⟨rfl, rfl⟩, rfl, ⟨rfl, rfl⟩⟩⟩
theorem inv_afterStart : Inv afterStart :=
  ⟨by decide, by decide, by decide, by
    refine ⟨rfl, ⟨rfl, rfl⟩, ⟨rfl, rfl⟩, ⟨rfl, rfl⟩, fun _ => rfl, fun h => (by cases h), by decide,
      .inr (headerHeld_loaded s1 (by decide)), ?_⟩
    unfold readSoFar
    decide⟩
theorem inv_beforeAssemble : Inv beforeAssemble :=
  ⟨by decide, by decide, by decide, by
    refine ⟨rfl, ⟨rfl, rfl⟩, ⟨rfl, rfl⟩, ⟨rfl, rfl⟩, fun h => (by cases h), fun _ => (by decide),
      by decide, .inr (headerHeld_loaded s1 (by decide)), ?_⟩
    unfold readSoFar
    decide⟩
theorem inv_endS1 : Inv endS1 :=
  ⟨by decide, by decide, by decide, by
    obtain ⟨-, -, hh, ho, hr, ht, hm, hc⟩ := endS1_result
    exact ⟨⟨s1Header, by decide, hh⟩, ho, ⟨0, hr⟩, ht, hm, hc⟩⟩

theorem witness_StepKeepsInv : (∃ t, step afterStart = .next t) ∧ Inv afterStart ∧
    (∃ t, step beforeAssemble = .next t) ∧ Inv beforeAssemble ∧
    (∃ t, step (loaded s1) = .next t) ∧ Inv (loaded s1) ∧
    (∃ t, step endS1 = .next t) ∧ Inv endS1 ∧ endS1.phase = .done := by
  have h : ∀ s ∈ [afterStart, beforeAssemble, loaded s1, endS1],
      nextIs (step s) (fun _ => true) = true := by decide
  have n : ∀ s ∈ [afterStart, beforeAssemble, loaded s1, endS1], ∃ t, step s = .next t :=
    fun s hs => (next_of (h s hs)).imp fun _ h => h.1
  exact ⟨n _ (by simp), inv_afterStart, n _ (by simp), inv_beforeAssemble, n _ (by simp), inv_loaded,
    n _ (by simp), inv_endS1, rfl⟩
/-- For each clause of NothingOverflows; the cursor at both ends of its range. -/
theorem witness_NothingOverflows : 15 < 16 ∧ Config.lenWOk 4 ∧ (loaded (zeroBuf 15)).inLen < 2 ^ 4 ∧
    nextIs (exec .decode (loaded (zeroBuf 15))) (fun t => t.remLen = some 3) ∧
    nextIs (exec .decode (loaded (zeroBuf 11))) (fun t => t.errBitsAvailable = some 88) ∧
    Inv afterStart ∧ sequencer afterStart = .instr .chkLen ∧
    nextIs (exec .chkLen afterStart) (fun _ => true) ∧
    Inv beforeAssemble ∧ sequencer beforeAssemble = .instr .assemble ∧
    nextIs (exec .assemble beforeAssemble) (fun _ => true) :=
  ⟨by decide, by decide, by decide, by decide, by decide, inv_afterStart, by decide, by decide,
   inv_beforeAssemble, by decide, by decide⟩
theorem witness_BusyAlwaysProgresses :
    (Inv afterStart ∧ afterStart.phase = .busy ∧ afterStart.turn = .decoder) ∧
    (Inv beforeAssemble ∧ beforeAssemble.phase = .busy ∧ beforeAssemble.turn = .decoder) :=
  ⟨⟨inv_afterStart, rfl, rfl⟩, ⟨inv_beforeAssemble, rfl, rfl⟩⟩

/-- I4: two instances, steps interleaved. -/
theorem witness_InstancesIndependent :
    nextIs (fleetRun [0, 1, 1, 0] [withTurns [.host .start] (loaded s1), withTurns [.host .start] (loaded s3)])
      (fun f => decide (f.length = 2)) ∧
    ([withTurns [.host .start] (loaded s1), withTurns [.host .start] (loaded s3)])[1]? =
      some (withTurns [.host .start] (loaded s3)) := by decide

end Sys2Proof.Tests
end

/-! ## Steps that steer by the control state alone (10_state.md R39) -/

namespace Sys2Proof.Machine

/-- `f` reads nothing but what `sameControl` shares: from two states that agree there it goes the same way,
to two states that agree there again. -/
def SteeredByControl (f : State → Out State) : Prop :=
  ∀ s t s' : State, s.sameControl t → f s = .next s' → ∃ t', f t = .next t' ∧ s'.sameControl t'

theorem memRead_congr {s t : State} (hb : t.buf = s.buf) (hl : t.inLen = s.inLen) (a : Nat) :
    memRead a t = memRead a s := by
  rw [memRead, memRead, hb, hl]

/-- READ1 once the byte under the cursor is read. -/
theorem read1_of_memRead {s : State} {b : Byte} (h : memRead (byteIdx s.cur) s = .next b) :
    read1 s = .next (wbit b s.cur.toNat,
      { s with cur := advance s, readTrace := noteRead (byteIdx s.cur) s.readTrace }) := by
  rw [read1, h, andThen_next]

theorem sameControl_acc {s t : State} (a : Option Half) (h : s.sameControl t) :
    State.sameControl { s with acc := a } { t with acc := a } := by
  obtain ⟨hp, hc, hk, -, hrest⟩ := h
  exact ⟨hp, hc, hk, rfl, hrest⟩

theorem sameControl_z {s t : State} (z : Option (BitVec 3)) (h : s.sameControl t) :
    State.sameControl { s with z := z } { t with z := z } := by
  obtain ⟨hp, hc, hk, ha, -, hrest⟩ := h
  exact ⟨hp, hc, hk, ha, rfl, hrest⟩

theorem read1_sameControl {s t s' : State} {b : Bool} (h : s.sameControl t)
    (hr : read1 s = .next (b, s')) : ∃ t', read1 t = .next (b, t') ∧ s'.sameControl t' := by
  obtain ⟨hp, hc, hk, ha, hz, htr, hbuf, hlen, hfree⟩ := h
  obtain ⟨v, hv, hr⟩ := andThen_eq_next hr
  cases hr
  have ht : memRead (byteIdx t.cur) t = .next v := by rw [hc, memRead_congr hbuf hlen, hv]
  have hadv : advance t = advance s := by rw [advance, advance, hc, hfree]
  have hnote : noteRead (byteIdx t.cur) t.readTrace = noteRead (byteIdx s.cur) s.readTrace := by
    rw [hc, htr]
  exact ⟨{ t with cur := advance t, readTrace := noteRead (byteIdx t.cur) t.readTrace },
    hc ▸ read1_of_memRead ht, hp, hadv, hk, ha, hz, hnote, hbuf, hlen, hfree⟩

theorem readLoop_sameControl {n : Nat} {a a' : Half} {s t s' : State} (h : s.sameControl t)
    (hr : readLoop n a s = .next (a', s')) :
    ∃ t', readLoop n a t = .next (a', t') ∧ s'.sameControl t' := by
  induction n generalizing a s t with
  | zero => cases hr; exact ⟨t, rfl, h⟩
  | succ n ih =>
    obtain ⟨⟨b, u⟩, hu, hr⟩ := andThen_eq_next hr
    obtain ⟨u', hu', hs⟩ := read1_sameControl h hu
    rw [readLoop, hu', andThen_next]
    exact ih (sameControl_acc _ hs) hr

theorem readN_sameControl {n : Nat} {v : BitVec n} {s t s' : State} (h : s.sameControl t)
    (hr : readN n s = .next (v, s')) : ∃ t', readN n t = .next (v, t') ∧ s'.sameControl t' := by
  obtain ⟨⟨a, u⟩, hu, hr⟩ := andThen_eq_next hr
  cases hr
  obtain ⟨t', ht', hs⟩ := readLoop_sameControl (sameControl_acc (some 0) h) hu
  exact ⟨t', by rw [readN, ht', andThen_next], hs⟩

/-- A READN followed by what is steered by the control state is so itself. -/
theorem steered_readN {n : Nat} {f : BitVec n × State → Out State}
    (hf : ∀ v, SteeredByControl fun u => f (v, u)) :
    SteeredByControl fun s => andThen (readN n s) f := by
  intro s t s' h hx
  obtain ⟨⟨v, u⟩, hu, hx⟩ := andThen_eq_next hx
  obtain ⟨u', hu', hs⟩ := readN_sameControl h hu
  simp only [hu', andThen_next]
  exact hf v u u' s' hs hx

/-- An update that keeps two states alike in control is steered by nothing else. -/
theorem steered_next {g : State → State} (hg : ∀ s t, s.sameControl t → (g s).sameControl (g t)) :
    SteeredByControl fun s => .next (g s) := by
  intro s t s' h hx
  cases hx
  exact ⟨g t, rfl, hg s t h⟩

theorem steered_extractZ : SteeredByControl extractZ := by
  refine steered_readN fun p => ?_
  by_cases h0 : p = 0
  · simp only [h0, if_true]
    exact steered_next fun _ _ => sameControl_z _
  · simp only [h0, if_false]
    exact steered_next fun _ _ ⟨_, hc, hk, _, _, hrest⟩ => ⟨rfl, hc, hk, rfl, rfl, hrest⟩

theorem steered_checkLength : SteeredByControl checkLength := by
  intro s t s' ⟨hp, hc, hk, ha, hz, htr, hbuf, hlen, hfree⟩ hx
  by_cases hs : s.inLen < 12
  · rw [checkLength_short hs] at hx
    cases hx
    exact ⟨_, checkLength_short (hlen ▸ hs), rfl, hc, hk, rfl, rfl, htr, hbuf, hlen, hfree⟩
  · have hl : 12 ≤ s.inLen := Nat.le_of_not_lt hs
    rw [checkLength_long hl] at hx
    cases hx
    exact ⟨_, checkLength_long (hlen ▸ hl), hp, hc, rfl, ha, hz, htr, hbuf, hlen, hfree⟩

theorem steered_presentResult : SteeredByControl fun s => .next (presentResult s) :=
  steered_next fun _ _ ⟨_, hc, hk, _, _, hrest⟩ => ⟨rfl, hc, hk, rfl, rfl, hrest⟩

/-- Settles O31: a step is the length check, RD.Z, ASSEMBLE, or a READN whose value goes to registers
outside the control state, and each of these goes by the control state alone. -/
theorem flagsSteerNothing : Obligations.FlagsSteerNothing := by
  intro i s t s' hi h hx
  suffices SteeredByControl (exec i) from this s t s' h hx
  simp only [List.mem_cons, List.not_mem_nil, or_false] at hi
  rcases hi with rfl | rfl | rfl | rfl | rfl | rfl | rfl | rfl | rfl | rfl | rfl | rfl | rfl | rfl | rfl
  · exact steered_checkLength
  iterate 7
    · exact steered_readN fun _ => steered_next fun _ _ h => h
  · exact steered_extractZ
  iterate 5
    · exact steered_readN fun _ => steered_next fun _ _ h => h
  · exact steered_presentResult

end Sys2Proof.Machine

/-! ## DECODE in closed form (42_decode_transaction.md R142, R150): every step of the sequence takes the
transaction from one cursor value to the next, with the fields behind the cursor read. -/

namespace Sys2Proof.Machine

/-! ### The fields of a header as wire bits (30_encoding.md R71, R74) -/

theorem beHalf_toNat (hi lo : Byte) : (beHalf hi lo).toNat = hi.toNat * 2 ^ 8 + lo.toNat := by
  rw [beHalf, BitVec.toNat_append, ← Nat.shiftLeft_add_eq_or_of_lt lo.isLt, Nat.shiftLeft_eq]

theorem wbits_half (b : Nat → Byte) (a : Nat) :
    BitVec.ofNat 16 (wbits b (8 * a) 16) = beHalf (b a) (b (a + 1)) := by
  apply BitVec.eq_of_toNat_eq
  rw [BitVec.toNat_ofNat, Nat.mod_eq_of_lt (wbits_lt b (8 * a) 16), beHalf_toNat,
    wbits_add b (8 * a) 8 8, wbits_byte, ← Nat.mul_succ, wbits_byte]

theorem wbits_id (b : Nat → Byte) : BitVec.ofNat 16 (wbits b 0 16) = (headerOf b).id :=
  wbits_half b 0

theorem wbits_qdcount (b : Nat → Byte) : BitVec.ofNat 16 (wbits b 32 16) = (headerOf b).qdcount :=
  wbits_half b 4

theorem wbits_ancount (b : Nat → Byte) : BitVec.ofNat 16 (wbits b 48 16) = (headerOf b).ancount :=
  wbits_half b 6

theorem wbits_nscount (b : Nat → Byte) : BitVec.ofNat 16 (wbits b 64 16) = (headerOf b).nscount :=
  wbits_half b 8

theorem wbits_arcount (b : Nat → Byte) : BitVec.ofNat 16 (wbits b 80 16) = (headerOf b).arcount :=
  wbits_half b 10

theorem wbits_opcodeRaw (b : Nat → Byte) : BitVec.ofNat 4 (wbits b 17 4) = opcodeRawOf b := by
  have key : ∀ x : Byte, BitVec.ofNat 4 (wbits (fun _ => x) 17 4) = x.extractLsb' 3 4 := by decide
  exact key (b 2)

theorem wbits_zone (b : Nat → Byte) : BitVec.ofNat 3 (wbits b 25 3) = zoneOf b := by
  have key : ∀ x : Byte, BitVec.ofNat 3 (wbits (fun _ => x) 25 3) = x.extractLsb' 4 3 := by decide
  exact key (b 3)

theorem wbits_rcodeRaw (b : Nat → Byte) : BitVec.ofNat 4 (wbits b 28 4) = rcodeRawOf b := by
  have key : ∀ x : Byte, BitVec.ofNat 4 (wbits (fun _ => x) 28 4) = x.extractLsb' 0 4 := by decide
  exact key (b 3)

theorem unmap_mapOpcode : ∀ raw : BitVec 4, unmapOpcode (mapOpcode raw) = raw := by decide

theorem unmap_mapRcode : ∀ raw : BitVec 4, unmapRcode (mapRcode raw) = raw := by decide

/-! ### The trace of reads -/

/-- The bytes a transaction has read when its cursor is at `c`: all the cursor has reached, in ascending
order (20_memory.md R51, R59; log 10). -/
def traceTo (c : Nat) : List Nat := (List.range ((c + 7) / 8)).reverse

theorem noteRead_traceTo (c : Nat) : noteRead (c / 8) (traceTo c) = traceTo (c + 1) := by
  have next : traceTo (c + 1) = (List.range (c / 8 + 1)).reverse := by
    rw [traceTo, show (c + 1 + 7) / 8 = c / 8 + 1 by omega]
  rw [next, List.range_succ, List.reverse_concat]
  by_cases hb : c % 8 = 0
  · have e : (c + 7) / 8 = c / 8 := by omega
    have hne : ((List.range (c / 8)).reverse).head? ≠ some (c / 8) := fun h => by
      simpa using List.mem_of_head? h
    rw [traceTo, e, noteRead, if_neg hne]
  · have e : (c + 7) / 8 = c / 8 + 1 := by omega
    rw [traceTo, e, List.range_succ, List.reverse_concat, noteRead]
    exact if_pos rfl

theorem noteReads_traceTo (c n : Nat) : noteReads c n (traceTo c) = traceTo (c + n) := by
  induction n generalizing c with
  | zero => rfl
  | succ n ih => rw [noteReads, noteRead_traceTo, ih, Nat.add_right_comm, Nat.add_assoc]

/-! ### A transaction with the cursor at a given place -/

/-- The transaction `s` has begun, with the cursor at `c`: the length check has passed, each field the
cursor is past holds the buffer's value (41_field_extraction.md R127), and `a` is in the accumulator. -/
def State.readTo (s : State) (c : Nat) (a : Option Half) : State :=
  { s with
    lenOk := true
    cur := BitVec.ofNat 7 c
    readTrace := traceTo c
    acc := a
    id := if 16 ≤ c then some (headerOf s.byte).id else s.id
    qr := if 17 ≤ c then some (headerOf s.byte).qr else s.qr
    opcodeRaw := if 21 ≤ c then some (opcodeRawOf s.byte) else s.opcodeRaw
    opcodeTag := if 21 ≤ c then some (headerOf s.byte).opcode.tag else s.opcodeTag
    aa := if 22 ≤ c then some (headerOf s.byte).aa else s.aa
    tc := if 23 ≤ c then some (headerOf s.byte).tc else s.tc
    rd := if 24 ≤ c then some (headerOf s.byte).rd else s.rd
    ra := if 25 ≤ c then some (headerOf s.byte).ra else s.ra
    z := if 28 ≤ c then some (zoneOf s.byte) else s.z
    rcodeRaw := if 32 ≤ c then some (rcodeRawOf s.byte) else s.rcodeRaw
    rcodeTag := if 32 ≤ c then some (headerOf s.byte).rcode.tag else s.rcodeTag
    qdcount := if 48 ≤ c then some (headerOf s.byte).qdcount else s.qdcount
    ancount := if 64 ≤ c then some (headerOf s.byte).ancount else s.ancount
    nscount := if 80 ≤ c then some (headerOf s.byte).nscount else s.nscount
    arcount := if 96 ≤ c then some (headerOf s.byte).arcount else s.arcount }

section
variable {s : State} {c n : Nat} {a : Option Half}

theorem readTo_cur (hc : c ≤ 96) : (s.readTo c a).cur.toNat = c := by
  show (BitVec.ofNat 7 c).toNat = c
  rw [BitVec.toNat_ofNat]
  omega

/-- The accumulator after READN of `n` bits from wire bit `c` on. -/
def State.accAfter (s : State) (c n : Nat) : Option Half := some (BitVec.ofNat 16 (wbits s.byte c n))

/-- That transaction once READN has taken in the next `n` bits. -/
def State.readOn (s : State) (c n : Nat) (a : Option Half) : State :=
  { s.readTo c a with
    acc := s.accAfter c n
    cur := BitVec.ofNat 7 (c + n)
    readTrace := traceTo (c + n) }

/-- READN from a place inside the header, the header's bytes being held. -/
theorem readN_readTo (hl : 12 ≤ s.inLen) (hh : s.headerHeld) (hn : n ≤ 16) (hc : c + n ≤ 96) :
    readN n (s.readTo c a) = .next (BitVec.ofNat n (wbits s.byte c n), s.readOn c n a) := by
  have hcur : (s.readTo c a).cur.toNat = c := readTo_cur (by omega)
  have hread : (s.readTo c a).canRead n := canRead_of_headerHeld hl hh (by omega)
  rw [readN_eq hn hread, afterRead_at hcur (noteReads_traceTo c n), hcur]
  rfl

/-- The step `f` takes a transaction on the buffer of `s` from cursor `c` to cursor `c'`. -/
def TakesTo (f : State → Out State) (s : State) (c c' : Nat) : Prop :=
  ∀ a, ∃ a', f (s.readTo c a) = .next (s.readTo c' a')

/-- A step that is a READN and what it does with the bits at its place. -/
theorem takesTo_of_readN {g : BitVec n × State → Out State} (hl : 12 ≤ s.inLen) (hh : s.headerHeld)
    (hn : n ≤ 16) (hc : c + n ≤ 96)
    (hg : ∀ a, g (BitVec.ofNat n (wbits s.byte c n), s.readOn c n a) =
      .next (s.readTo (c + n) (s.accAfter c n))) :
    TakesTo (fun s => andThen (readN n s) g) s c (c + n) :=
  fun a => ⟨s.accAfter c n, (congrArg (andThen · g) (readN_readTo hl hh hn hc)).trans (hg a)⟩

end

section
variable {s : State} (hl : 12 ≤ s.inLen) (hh : s.headerHeld)
include hl hh

theorem extractId_takes : TakesTo extractId s 0 16 :=
  takesTo_of_readN hl hh (by decide) (by decide) fun _ => by rw [wbits_id]; rfl

theorem extractQr_takes : TakesTo extractQr s 16 17 :=
  takesTo_of_readN hl hh (by decide) (by decide) fun _ => by rw [flagOf_wbits]; rfl

theorem extractOpcode_takes : TakesTo extractOpcode s 17 21 :=
  takesTo_of_readN hl hh (by decide) (by decide) fun _ => by rw [wbits_opcodeRaw]; rfl

theorem extractAa_takes : TakesTo extractAa s 21 22 :=
  takesTo_of_readN hl hh (by decide) (by decide) fun _ => by rw [flagOf_wbits]; rfl

theorem extractTc_takes : TakesTo extractTc s 22 23 :=
  takesTo_of_readN hl hh (by decide) (by decide) fun _ => by rw [flagOf_wbits]; rfl

theorem extractRd_takes : TakesTo extractRd s 23 24 :=
  takesTo_of_readN hl hh (by decide) (by decide) fun _ => by rw [flagOf_wbits]; rfl

theorem extractRa_takes : TakesTo extractRa s 24 25 :=
  takesTo_of_readN hl hh (by decide) (by decide) fun _ => by rw [flagOf_wbits]; rfl

/-- RD.Z goes on where the reserved zone is zero. -/
theorem extractZ_takes (hz : zoneOf s.byte = 0) : TakesTo extractZ s 25 28 :=
  takesTo_of_readN hl hh (by decide) (by decide) fun _ => by rw [wbits_zone, if_pos hz]; rfl

theorem extractRcode_takes : TakesTo extractRcode s 28 32 :=
  takesTo_of_readN hl hh (by decide) (by decide) fun _ => by rw [wbits_rcodeRaw]; rfl

theorem extractQdcount_takes : TakesTo extractQdcount s 32 48 :=
  takesTo_of_readN hl hh (by decide) (by decide) fun _ => by rw [wbits_qdcount]; rfl

theorem extractAncount_takes : TakesTo extractAncount s 48 64 :=
  takesTo_of_readN hl hh (by decide) (by decide) fun _ => by rw [wbits_ancount]; rfl

theorem extractNscount_takes : TakesTo extractNscount s 64 80 :=
  takesTo_of_readN hl hh (by decide) (by decide) fun _ => by rw [wbits_nscount]; rfl

theorem extractArcount_takes : TakesTo extractArcount s 80 96 :=
  takesTo_of_readN hl hh (by decide) (by decide) fun _ => by rw [wbits_arcount]; rfl

/-- RD.Z raises the failure where the reserved zone is not zero. -/
theorem extractZ_raises (hz : zoneOf s.byte ≠ 0) (a : Option Half) :
    extractZ (s.readTo 25 a) = .next (finishMalformed (zoneOf s.byte) s) := by
  rw [extractZ, readN_readTo hl hh (by decide) (by decide), andThen_next, wbits_zone, if_neg hz]
  rfl

/-- The steps before RD.Z. -/
theorem runSteps_toZone (hb : s.phase = .busy) (a : Option Half) :
    ∃ a', runSteps (sequenceSteps.drop 1) (s.readTo 0 a) =
      runSteps (sequenceSteps.drop 8) (s.readTo 25 a') := by
  obtain ⟨a₁, h₁⟩ := extractId_takes hl hh a
  obtain ⟨a₂, h₂⟩ := extractQr_takes hl hh a₁
  obtain ⟨a₃, h₃⟩ := extractOpcode_takes hl hh a₂
  obtain ⟨a₄, h₄⟩ := extractAa_takes hl hh a₃
  obtain ⟨a₅, h₅⟩ := extractTc_takes hl hh a₄
  obtain ⟨a₆, h₆⟩ := extractRd_takes hl hh a₅
  obtain ⟨a₇, h₇⟩ := extractRa_takes hl hh a₆
  exact ⟨a₇, (runSteps_cons h₁ hb).trans <| (runSteps_cons h₂ hb).trans <|
    (runSteps_cons h₃ hb).trans <| (runSteps_cons h₄ hb).trans <| (runSteps_cons h₅ hb).trans <|
    (runSteps_cons h₆ hb).trans <| runSteps_cons h₇ hb⟩

/-- RD.Z, where the zone is zero, and the steps from there up to ASSEMBLE. -/
theorem runSteps_pastZone (hb : s.phase = .busy) (hz : zoneOf s.byte = 0) (a : Option Half) :
    ∃ a', runSteps (sequenceSteps.drop 8) (s.readTo 25 a) =
      runSteps (sequenceSteps.drop 14) (s.readTo 96 a') := by
  obtain ⟨a₁, h₁⟩ := extractZ_takes hl hh hz a
  obtain ⟨a₂, h₂⟩ := extractRcode_takes hl hh a₁
  obtain ⟨a₃, h₃⟩ := extractQdcount_takes hl hh a₂
  obtain ⟨a₄, h₄⟩ := extractAncount_takes hl hh a₃
  obtain ⟨a₅, h₅⟩ := extractNscount_takes hl hh a₄
  obtain ⟨a₆, h₆⟩ := extractArcount_takes hl hh a₅
  exact ⟨a₆, (runSteps_cons h₁ hb).trans <| (runSteps_cons h₂ hb).trans <|
    (runSteps_cons h₃ hb).trans <| (runSteps_cons h₄ hb).trans <| (runSteps_cons h₅ hb).trans <|
    runSteps_cons h₆ hb⟩

end

/-- ASSEMBLE at the end of the header presents the header of the closed form. -/
theorem presentResult_readTo (s : State) (a : Option Half) :
    presentResult ((beginTransaction s).readTo 96 a) = finishOk (headerOf s.byte) (beginTransaction s) := by
  have ho : unmapOpcode (headerOf s.byte).opcode = opcodeRawOf s.byte := unmap_mapOpcode _
  have hr : unmapRcode (headerOf s.byte).rcode = rcodeRawOf s.byte := unmap_mapRcode _
  rw [finishOk, ho, hr]
  rfl

section
variable {s t : State} (hp : s.phase ≠ .busy)
include hp

theorem decode_short (hl : s.inLen < 12) :
    exec .decode s = .next (raiseTruncated s.inLen (beginTransaction s)) :=
  (onStart_eq hp (.inl hl)).trans (runSteps_done (checkLength_short hl) rfl)

/-- From 12 bytes on, START and the length check, and the header's bits are read from cursor 0. -/
theorem decode_long (hl : 12 ≤ s.inLen) (hh : s.headerHeld) :
    exec .decode s = runSteps (sequenceSteps.drop 1) ((beginTransaction s).readTo 0 none) :=
  (onStart_eq hp (.inr hh)).trans (runSteps_cons (checkLength_long hl) rfl)

theorem decode_malformed (hl : 12 ≤ s.inLen) (hh : s.headerHeld) (hz : zoneOf s.byte ≠ 0) :
    exec .decode s = .next (finishMalformed (zoneOf s.byte) (beginTransaction s)) := by
  obtain ⟨a, h⟩ := runSteps_toZone (s := beginTransaction s) hl hh rfl none
  rw [decode_long hp hl hh, h]
  exact runSteps_done (extractZ_raises (s := beginTransaction s) hl hh hz a) rfl

theorem decode_ok (hl : 12 ≤ s.inLen) (hh : s.headerHeld) (hz : zoneOf s.byte = 0) :
    exec .decode s = .next (finishOk (headerOf s.byte) (beginTransaction s)) := by
  obtain ⟨a, h⟩ := runSteps_toZone (s := beginTransaction s) hl hh rfl none
  obtain ⟨a', h'⟩ := runSteps_pastZone (s := beginTransaction s) hl hh rfl hz a
  rw [decode_long hp hl hh, h, h', ← presentResult_readTo s a']
  exact runSteps_done rfl rfl

end

/-- All that a DECODE that answers next can have done. -/
theorem decode_next_inv {s t : State} (h : exec .decode s = .next t) :
    s.phase ≠ .busy ∧
    (s.inLen < 12 ∧ t = raiseTruncated s.inLen (beginTransaction s) ∨
      12 ≤ s.inLen ∧ s.headerHeld ∧ zoneOf s.byte ≠ 0 ∧
        t = finishMalformed (zoneOf s.byte) (beginTransaction s) ∨
      12 ≤ s.inLen ∧ s.headerHeld ∧ zoneOf s.byte = 0 ∧
        t = finishOk (headerOf s.byte) (beginTransaction s)) := by
  obtain ⟨hp, hs, -⟩ := onStart_inv h
  refine ⟨hp, ?_⟩
  by_cases hl : s.inLen < 12
  · rw [decode_short hp hl] at h
    cases h
    exact .inl ⟨hl, rfl⟩
  have hh : s.headerHeld := hs.resolve_left hl
  have hl : 12 ≤ s.inLen := Nat.le_of_not_lt hl
  by_cases hz : zoneOf s.byte = 0
  · rw [decode_ok hp hl hh hz] at h
    cases h
    exact .inr (.inr ⟨hl, hh, hz, rfl⟩)
  · rw [decode_malformed hp hl hh hz] at h
    cases h
    exact .inr (.inl ⟨hl, hh, hz, rfl⟩)

/-! ### Nothing of an earlier transaction survives (10_state.md R41) -/

theorem byte_eq_of_get {s s' : State} {a : Nat} (h : Memory.get s'.buf a = Memory.get s.buf a) :
    s'.byte a = s.byte a := by
  rw [State.byte, State.byte, h]

theorem headerOf_congr {b b' : Nat → Byte} (h : ∀ a, a < 12 → b' a = b a) : headerOf b' = headerOf b := by
  simp only [headerOf, opcodeRawOf, rcodeRawOf, h 0 (by decide), h 1 (by decide), h 2 (by decide),
    h 3 (by decide), h 4 (by decide), h 5 (by decide), h 6 (by decide), h 7 (by decide),
    h 8 (by decide), h 9 (by decide), h 10 (by decide), h 11 (by decide)]

theorem headerHeld_congr {s s' : State} (h : ∀ a, a < 12 → Memory.get s'.buf a = Memory.get s.buf a)
    (hh : s.headerHeld) : s'.headerHeld := fun a ha => by
  rw [h a ha]
  exact hh a ha

/-- The outcomes of two transactions just begun are the same, whatever came before them. -/
theorem raiseTruncated_sameOutcome (n : Nat) (s s' : State) :
    (raiseTruncated n (beginTransaction s)).sameOutcome (raiseTruncated n (beginTransaction s')) := by
  simp [State.sameOutcome]

theorem finishMalformed_sameOutcome (z : BitVec 3) (s s' : State) :
    (finishMalformed z (beginTransaction s)).sameOutcome (finishMalformed z (beginTransaction s')) := by
  simp [State.sameOutcome, finishMalformed]

theorem finishOk_sameOutcome (h : Header) (s s' : State) :
    (finishOk h (beginTransaction s)).sameOutcome (finishOk h (beginTransaction s')) := by
  simp [State.sameOutcome, finishOk]

/-- Settles O47, by the closed form of DECODE: its result is a function of `in_len` and the bytes below it. -/
theorem nothingSurvives : Obligations.NothingSurvives := by
  intro s s' hp hp' hlen hget
  refine ⟨fun hs => ⟨beginTransaction s, onStart_eq hp hs, ?_⟩, fun t ht => ?_⟩
  · simp [State.noHeader, State.noRemainder, State.noTruncated, State.noMalformed, State.noInternal]
  obtain ⟨-, ⟨hl, rfl⟩ | ⟨hl, hh, hz, rfl⟩ | ⟨hl, hh, hz, rfl⟩⟩ := decode_next_inv ht
  · exact ⟨_, decode_short hp' (hlen ▸ hl), hlen ▸ raiseTruncated_sameOutcome _ s s', rfl⟩
  all_goals
    have hget' : ∀ a, a < 12 → Memory.get s'.buf a = Memory.get s.buf a :=
      fun a ha => hget a (Nat.lt_of_lt_of_le ha hl)
    have hbyte : ∀ a, a < 12 → s'.byte a = s.byte a := fun a ha => byte_eq_of_get (hget' a ha)
    have hzone : zoneOf s'.byte = zoneOf s.byte := by rw [zoneOf, zoneOf, hbyte 3 (by decide)]
    have hh' := headerHeld_congr hget' hh
  · refine ⟨_, decode_malformed hp' (hlen ▸ hl) hh' (hzone ▸ hz), ?_, rfl⟩
    rw [hzone]
    exact finishMalformed_sameOutcome _ s s'
  · refine ⟨_, decode_ok hp' (hlen ▸ hl) hh' (hzone ▸ hz), ?_, ?_⟩
    · rw [headerOf_congr hbyte]
      exact finishOk_sameOutcome _ s s'
    · show some (remainderLen s'.inLen) = some (remainderLen s.inLen)
      rw [hlen]

end Sys2Proof.Machine

/-! ## Progress in BUSY (10_state.md R29, 70_reset_and_hazards.md R212) -/

namespace Sys2Proof.Machine

/-- The bits a step of the sequence reads (41_field_extraction.md R127). -/
def stepWidth : Instr → Nat
  | .rdId | .rdQdcount | .rdAncount | .rdNscount | .rdArcount => 16
  | .rdQr | .rdAa | .rdTc | .rdRd | .rdRa => 1
  | .rdZ => 3
  | .rdOpcode | .rdRcode => 4
  | _ => 0

/-- A step's bits lie inside the header, and only ASSEMBLE, at its end, reads none. -/
theorem stepAt_width : ∀ c : BitVec 7, ∀ i ∈ stepAt c,
    c.toNat + stepWidth i ≤ 96 ∧ (i = .assemble ∨ 0 < stepWidth i) := by decide

theorem afterRead_cur_toNat {s : State} {n : Nat} (h : s.canRead n) :
    (s.afterRead n).cur.toNat = s.cur.toNat + n := by
  obtain ⟨hc, -, -⟩ := h
  rw [afterRead_cur, BitVec.toNat_ofNat]
  omega

/-- The step the cursor names completes where the header's bytes are held, and moves the cursor past the
bits it reads. -/
theorem exec_stepAt {s : State} {i : Instr} (hi : i ∈ stepAt s.cur) (hl : 12 ≤ s.inLen)
    (hh : s.headerHeld) :
    ∃ t, exec i s = .next t ∧ t.cur.toNat = s.cur.toNat + stepWidth i := by
  have hread : s.canRead (stepWidth i) := canRead_of_headerHeld hl hh (stepAt_width _ i hi).1
  have hcur := afterRead_cur_toNat hread
  have hi' : stepAt s.cur = some i := hi
  unfold stepAt at hi'
  split at hi' <;> cases hi'
  · exact ⟨_, extractId_eq hread, hcur⟩
  · exact ⟨_, extractQr_eq hread, hcur⟩
  · exact ⟨_, extractOpcode_eq hread, hcur⟩
  · exact ⟨_, extractAa_eq hread, hcur⟩
  · exact ⟨_, extractTc_eq hread, hcur⟩
  · exact ⟨_, extractRd_eq hread, hcur⟩
  · exact ⟨_, extractRa_eq hread, hcur⟩
  · by_cases hz : BitVec.ofNat 3 (wbits s.byte s.cur.toNat 3) = 0
    · exact ⟨_, (extractZ_eq hread).trans (if_pos hz), hcur⟩
    · exact ⟨_, (extractZ_eq hread).trans (if_neg hz), hcur⟩
  · exact ⟨_, extractRcode_eq hread, hcur⟩
  · exact ⟨_, extractQdcount_eq hread, hcur⟩
  · exact ⟨_, extractAncount_eq hread, hcur⟩
  · exact ⟨_, extractNscount_eq hread, hcur⟩
  · exact ⟨_, extractArcount_eq hread, hcur⟩
  · exact ⟨_, rfl, rfl⟩

/-- The shape the invariant gives a state in BUSY. -/
theorem Inv.underWay {s : State} (h : Inv s) (hb : s.phase = .busy) : s.underWay := by
  have hs := h.shape
  rwa [hb] at hs

theorem step_decoder {s : State} {i : Instr} (ht : s.turn = .decoder) (hq : sequencer s = .instr i) :
    step s = exec i s.pop := by
  rw [step, ht]
  simp only [decoderTurn, hq]

theorem sequencer_chkLen {s : State} (hb : s.phase = .busy) (hk : s.lenOk = false) :
    sequencer s = .instr .chkLen := by
  simp [sequencer, hb, hk]

theorem sequencer_stepAt {s : State} {i : Instr} (hb : s.phase = .busy) (hk : s.lenOk = true)
    (hi : stepAt s.cur = some i) : sequencer s = .instr i := by
  simp [sequencer, hb, hk, hi]

/-- Settles O59: before the length check has passed the cursor is 0 and stays there; after it the cursor
names a step whose bits lie inside the header, which is held. -/
theorem busyAlwaysProgresses : Obligations.BusyAlwaysProgresses := by
  intro s hinv hb ht
  obtain ⟨-, -, -, -, hcur, hlen, hstep, hsup, -⟩ := hinv.underWay hb
  cases hk : s.lenOk with
  | false =>
    have h0 : s.cur.toNat = 0 := congrArg BitVec.toNat (hcur hk)
    rw [step_decoder ht (sequencer_chkLen hb hk)]
    by_cases hl : s.inLen < 12
    · exact ⟨_, checkLength_short (s := s.pop) hl, le_refl _, by simp [h0], fun hd => by cases hd⟩
    · exact ⟨_, checkLength_long (s := s.pop) (Nat.le_of_not_lt hl), le_refl _, by simp [h0],
        fun _ => .inr ⟨rfl, rfl⟩⟩
  | true =>
    have hl : 12 ≤ s.inLen := hlen hk
    obtain ⟨i, hi⟩ := Option.isSome_iff_exists.mp hstep
    obtain ⟨hin, hwidth⟩ := stepAt_width _ i hi
    obtain ⟨t, hx, hc⟩ := exec_stepAt (s := s.pop) hi hl (hsup.resolve_left (Nat.not_lt.mpr hl))
    rw [step_decoder ht (sequencer_stepAt hb hk hi)]
    rw [pop_cur] at hc
    refine ⟨t, hx, by omega, by omega, fun hd => .inl ?_⟩
    rcases hwidth with rfl | hw
    · cases hx
      cases hd
    · omega

end Sys2Proof.Machine

/-! ## Who writes `phase` and `status` (10_state.md R32, R33) -/

namespace Sys2Proof.Machine

/-- A whole transaction has ended: DONE, with a result. -/
def State.ended (t : State) : Prop := t.phase = .done ∧ t.status ≠ .none

/-- The phase and the status are as they were. -/
def State.samePhase (s t : State) : Prop := t.phase = s.phase ∧ t.status = s.status

/-! ### The transaction rows -/

theorem raiseTruncated_ended (n : Nat) (s : State) : (raiseTruncated n s).ended :=
  ⟨rfl, Status.noConfusion⟩

theorem finishMalformed_ended (z : BitVec 3) (s : State) : (finishMalformed z s).ended :=
  ⟨rfl, Status.noConfusion⟩

theorem finishOk_ended (h : Header) (s : State) : (finishOk h s).ended := ⟨rfl, Status.noConfusion⟩

theorem decode_ended {s t : State} (h : exec .decode s = .next t) : s.phase ≠ .busy ∧ t.ended := by
  obtain ⟨hp, ⟨-, rfl⟩ | ⟨-, -, -, rfl⟩ | ⟨-, -, -, rfl⟩⟩ := decode_next_inv h
  · exact ⟨hp, raiseTruncated_ended _ _⟩
  · exact ⟨hp, finishMalformed_ended _ _⟩
  · exact ⟨hp, finishOk_ended _ _⟩

theorem outcomeOk_ended {g : Header} {s t : State} (h : outcomeOk g s = .next t) :
    s.phase ≠ .busy ∧ t.ended := by
  obtain ⟨hp, -, h⟩ := onStart_inv h
  split at h <;> cases h
  · exact ⟨hp, raiseTruncated_ended _ _⟩
  · exact ⟨hp, finishOk_ended _ _⟩

theorem outcomeMalformed_ended {z : BitVec 3} {s t : State} (h : outcomeMalformed z s = .next t) :
    s.phase ≠ .busy ∧ t.ended := by
  obtain ⟨hp, -, h⟩ := onStart_inv h
  split at h <;> cases h
  · exact ⟨hp, raiseTruncated_ended _ _⟩
  · exact ⟨hp, finishMalformed_ended _ _⟩

theorem outcomeTruncated_ended {n : Nat} {s t : State} (h : outcomeTruncated n s = .next t) :
    s.phase ≠ .busy ∧ t.ended := by
  obtain ⟨hp, -, h⟩ := onStart_inv h
  cases h
  exact ⟨hp, raiseTruncated_ended _ _⟩

/-- The rows without operand that are a whole transaction. -/
def transactionRows : List Instr :=
  [.decode, .decodeMalformed1, .decodeMalformed2, .decodeMalformed3, .decodeMalformed4,
    .decodeMalformed5, .decodeMalformed6, .decodeMalformed7, .decodeTruncatedL0, .decodeTruncatedL1,
    .decodeTruncatedL2, .decodeTruncatedL3, .decodeTruncatedL4, .decodeTruncatedL5,
    .decodeTruncatedL6, .decodeTruncatedL7, .decodeTruncatedL8, .decodeTruncatedL9,
    .decodeTruncatedL10, .decodeTruncatedL11]

theorem transactionRow_ended {i : Instr} {s t : State} (hi : i ∈ transactionRows)
    (h : exec i s = .next t) : s.phase ≠ .busy ∧ t.ended := by
  simp only [transactionRows, List.mem_cons, List.not_mem_nil, or_false] at hi
  rcases hi with rfl | rfl | rfl | rfl | rfl | rfl | rfl | rfl | rfl | rfl | rfl | rfl | rfl | rfl |
    rfl | rfl | rfl | rfl | rfl | rfl
  · exact decode_ended h
  iterate 7
    · exact outcomeMalformed_ended h
  iterate 12
    · exact outcomeTruncated_ended h

/-! ### The steps that write them: START, CHK.LEN, RD.Z -/

theorem onStart_next_begins {s t : State} (h : onStart (fun t => .next t) s = .next t) :
    s.phase ≠ .busy ∧ t.phase = .busy ∧ t.status = .none := by
  obtain ⟨hp, -, h⟩ := onStart_inv h
  cases h
  exact ⟨hp, rfl, rfl⟩

theorem checkLength_phase {s t : State} (h : checkLength s = .next t) :
    (s.inLen < 12 → t.phase = .done ∧ t.status = .truncated) ∧ (12 ≤ s.inLen → s.samePhase t) := by
  refine ⟨fun hl => ?_, fun hl => ?_⟩
  · rw [checkLength_short hl] at h
    cases h
    exact ⟨rfl, rfl⟩
  · rw [checkLength_long hl] at h
    cases h
    exact ⟨rfl, rfl⟩

theorem readN_samePhase {n : Nat} {v : BitVec n} {s t : State} (h : readN n s = .next (v, t)) :
    s.samePhase t := by
  rw [readN_frame h]
  exact ⟨rfl, rfl⟩

theorem extractZ_phase {s t : State} (h : extractZ s = .next t) :
    t.phase = .done ∧ t.status = .malformed ∨ s.samePhase t := by
  obtain ⟨p, u, hu, rfl⟩ := extractZ_frame h
  split
  · obtain ⟨hp, hs⟩ := readN_samePhase hu
    exact .inr ⟨hp, hs⟩
  · exact .inl ⟨rfl, rfl⟩

theorem ofNat_wbits_eq_zero {b : Nat → Byte} {c n : Nat} :
    BitVec.ofNat n (wbits b c n) = 0 ↔ wbits b c n = 0 := by
  rw [← BitVec.toNat_inj, BitVec.toNat_ofNat, Nat.mod_eq_of_lt (wbits_lt b c n)]
  simp

/-- Where the cursor does not run out, the zone RD.Z reads decides. -/
theorem extractZ_phase_iff {s t : State} (h : extractZ s = .next t) (hc : s.cur.toNat + 3 ≤ 127) :
    (wbits s.byte s.cur.toNat 3 ≠ 0 → t.phase = .done ∧ t.status = .malformed) ∧
    (wbits s.byte s.cur.toNat 3 = 0 → s.samePhase t) := by
  rw [extractZ_eq (canRead_of_extractZ h hc)] at h
  refine ⟨fun hz => ?_, fun hz => ?_⟩
  · rw [if_neg (mt ofNat_wbits_eq_zero.mp hz)] at h
    cases h
    exact ⟨rfl, rfl⟩
  · rw [if_pos (ofNat_wbits_eq_zero.mpr hz)] at h
    cases h
    exact ⟨rfl, rfl⟩

/-! ### Every other instruction -/

theorem read1_samePhase {b : Bool} {s t : State} (h : read1 s = .next (b, t)) : s.samePhase t := by
  obtain ⟨-, -, -, rfl⟩ := read1_next_inv h
  exact ⟨rfl, rfl⟩

/-- A READN whose value goes to registers other than the two. -/
theorem samePhase_of_readN {n : Nat} {g : BitVec n × State → State} {s t : State}
    (h : andThen (readN n s) (fun p => .next (g p)) = .next t)
    (hg : ∀ p : BitVec n × State, p.2.samePhase (g p)) : s.samePhase t := by
  obtain ⟨⟨v, u⟩, hu, h⟩ := andThen_eq_next h
  cases h
  obtain ⟨hp, hs⟩ := readN_samePhase hu
  exact ⟨(hg _).1.trans hp, (hg _).2.trans hs⟩

/-- The rows without operand that may write `phase` or `status`. -/
def phaseRows : List Instr := [.start, .assemble, .chkLen, .rdZ] ++ transactionRows

theorem exec_samePhase {i : Instr} {s t : State} (hi : i ∉ phaseRows) (ho : ∀ h, i ≠ .decodeOk h)
    (h : exec i s = .next t) : s.samePhase t := by
  cases i
  case decodeOk g => exact absurd rfl (ho g)
  case rdId | rdQr | rdOpcode | rdAa | rdTc | rdRd | rdRa | rdRcode | rdQdcount | rdAncount |
      rdNscount | rdArcount | readn1 | readn3 | readn4 | readn16 =>
    exact samePhase_of_readN h fun _ => ⟨rfl, rfl⟩
  case read1 =>
    obtain ⟨⟨b, u⟩, hu, h⟩ := andThen_eq_next h
    cases h
    obtain ⟨hp, hs⟩ := read1_samePhase hu
    exact ⟨hp, hs⟩
  case encode | mapOpcode0 | mapOpcode1 | mapOpcode2 | mapOpcode3 | mapOpcode4 | mapOpcode5 |
      mapOpcode6 | mapOpcode7 | mapOpcode8 | mapOpcode9 | mapOpcode10 | mapOpcode11 | mapOpcode12 |
      mapOpcode13 | mapOpcode14 | mapOpcode15 | mapRcode0 | mapRcode1 | mapRcode2 | mapRcode3 |
      mapRcode4 | mapRcode5 | mapRcode6 | mapRcode7 | mapRcode8 | mapRcode9 | mapRcode10 |
      mapRcode11 | mapRcode12 | mapRcode13 | mapRcode14 | mapRcode15 =>
    cases h
    exact ⟨rfl, rfl⟩
  all_goals exact absurd (by decide) hi

/-! ### The host, and the invariant -/

theorem hostSupply_next_inv {m : Memory} {n : Nat} {s t : State} (h : hostSupply m n s = .next t) :
    t = { s with buf := m, inLen := n } := by
  unfold hostSupply at h
  split at h <;> cases h
  rfl

theorem hostSupply_samePhase {m : Memory} {n : Nat} {s t : State} (h : hostSupply m n s = .next t) :
    s.samePhase t := by
  rw [hostSupply_next_inv h]
  exact ⟨rfl, rfl⟩

theorem hostRead_some {p : Port} {v : PortVal} {s : State} (h : portValue p s = some v) :
    hostRead p s = .next { s with hostData := some v } := by
  rw [hostRead, h]

theorem hostRead_none {p : Port} {s : State} (h : portValue p s = none) :
    hostRead p s = .fault (.readOfNone p) := by
  rw [hostRead, h]

theorem hostRead_samePhase {p : Port} {s t : State} (h : hostRead p s = .next t) : s.samePhase t := by
  cases hv : portValue p s with
  | some v =>
    rw [hostRead_some hv] at h
    cases h
    exact ⟨rfl, rfl⟩
  | none =>
    rw [hostRead_none hv] at h
    cases h

theorem hostMove_samePhase {m : HostMove} {s t : State} (hs : m ≠ .start) (hr : m ≠ .rst)
    (h : hostMove m s = .next t) : s.samePhase t := by
  cases m with
  | start => exact absurd rfl hs
  | rst => exact absurd rfl hr
  | read p => exact hostRead_samePhase h
  | load l => exact hostSupply_samePhase h
  | poke a b => exact hostSupply_samePhase h
  | setLen n => exact hostSupply_samePhase h

/-- In the runs within the contract there is a result exactly in DONE. -/
theorem Inv.done_iff {s : State} (h : Inv s) : s.phase = .done ↔ s.status ≠ .none := by
  have hs := h.shape
  cases hp : s.phase with
  | idle =>
    rw [hp] at hs
    simp [hs.1]
  | busy =>
    rw [hp] at hs
    simp [hs.1]
  | done =>
    rw [hp] at hs
    refine ⟨fun _ h0 => ?_, fun _ => rfl⟩
    change s.resultShape at hs
    rwa [State.resultShape, h0] at hs

/-- Settles O55: each instruction and each move of the host by what it can do to the two registers. -/
theorem phaseAndStatusWrites : Obligations.PhaseAndStatusWrites := by
  refine ⟨⟨rfl, rfl, rfl⟩, ⟨rfl, rfl, rfl, rfl⟩, fun s => by simp [State.busy, State.done],
    fun i s t h => ⟨?_, ?_, ?_, ?_, ?_, fun hi ho => exec_samePhase hi ho h⟩,
    fun m s t h => ⟨?_, ?_, fun hs hr => hostMove_samePhase hs hr h⟩, fun s => Inv.done_iff⟩
  · rintro rfl
    exact onStart_next_begins h
  · rintro rfl
    cases h
    exact ⟨rfl, rfl⟩
  · rintro rfl
    exact checkLength_phase h
  · rintro rfl
    exact ⟨extractZ_phase h, extractZ_phase_iff h⟩
  · rintro (hi | ⟨g, rfl⟩)
    · exact transactionRow_ended hi h
    · exact outcomeOk_ended h
  · rintro rfl
    exact onStart_next_begins h
  · rintro rfl
    cases h
    exact ⟨rfl, rfl⟩

end Sys2Proof.Machine

/-! ## The ports and the host's reads (10_state.md R36, R37), reset (R40), the cursor (R29, R30) -/

namespace Sys2Proof.Machine

/-! ### What the ports show -/

/-- Outside DONE no port but `busy` and `done` shows anything (10_state.md R37). -/
theorem portValue_not_done {p : Port} {s : State} (hs : s.phase ≠ .done) (hb : p ≠ .busy)
    (hd : p ≠ .done) : portValue p s = none := by
  cases p
  case busy => exact absurd rfl hb
  case done => exact absurd rfl hd
  case status => exact if_neg hs
  all_goals exact if_neg fun h => hs h.1

theorem validIn_eq {want : Status} {s : State} {v : Option PortVal} (hp : s.phase = .done)
    (hs : s.status = want) : validIn want s v = v := if_pos ⟨hp, hs⟩

theorem validIn_other {want : Status} {s : State} {v : Option PortVal} (hs : s.status ≠ want) :
    validIn want s v = none := if_neg fun h => hs h.2

/-- The status a result register belongs to (10_state.md R37, port list); none for the three ports that
are no such register. -/
def Port.wants : Port → Option Status
  | .busy | .done | .status => none
  | .errBitsRequired | .errBitsAvailable => some .truncated
  | .errPattern | .errBitOffset => some .malformed
  | .id | .qr | .opcodeRaw | .opcodeTag | .aa | .tc | .rd | .ra | .rcodeRaw | .rcodeTag | .qdcount
  | .ancount | .nscount | .arcount | .remOff | .remLen => some .ok

/-- A result register of another status shows nothing. -/
theorem portValue_other {p : Port} {s : State} {want : Status} (hw : p.wants = some want)
    (hs : s.status ≠ want) : portValue p s = none := by
  cases p
  case busy | done | status => cases hw
  all_goals
    cases hw
    exact validIn_other hs

theorem portValue_status_done {s : State} (hp : s.phase = .done) :
    portValue .status s = some (.status s.status) := if_pos hp

/-- Taking a turn off the agenda changes nothing a port shows. -/
theorem portValue_pop (p : Port) (s : State) : portValue p s.pop = portValue p s := rfl

theorem step_hostRead {p : Port} {rest : List Turn} {s : State} (h : s.agenda = .host (.read p) :: rest) :
    step s = hostRead p s.pop := by
  rw [step, State.turn, h]
  rfl

/-- Settles O51: the turn is `hostRead`, and taking it off the agenda changes no port. -/
theorem hostReads : Obligations.HostReads := by
  intro s p rest h
  refine ⟨fun v hv => ?_, fun hn => ?_⟩
  · rw [step_hostRead h, hostRead_some ((portValue_pop p s).trans hv), State.pop, h]
    rfl
  · rw [step_hostRead h, hostRead_none ((portValue_pop p s).trans hn)]

/-- Settles O50: in DONE the registers of `status` show what they hold, and those of another status
nothing. -/
theorem portsShowResults : Obligations.PortsShowResults := by
  intro s
  refine ⟨⟨rfl, rfl⟩, fun hs p => portValue_not_done hs, fun h n hr => ?_, fun n hr => ?_, fun z hr => ?_⟩
  · obtain ⟨hp, hs, ⟨hid, hqr, hopr, hopt, haa, htc, hrd, hra, hrcr, hrct, hqd, han, hns, har⟩, hoff, hlen,
      -⟩ := hr
    have show_eq (v : Option PortVal) : validIn .ok s v = v := validIn_eq hp hs
    have others : ∀ p ∈ [Port.errBitsRequired, .errBitsAvailable, .errPattern, .errBitOffset],
        portValue p s = none := fun p hp => by
      simp only [List.mem_cons, List.not_mem_nil, or_false] at hp
      rcases hp with rfl | rfl | rfl | rfl
      all_goals exact portValue_other rfl (by rw [hs]; decide)
    refine ⟨hs ▸ portValue_status_done hp, ?_, ?_, ?_, ?_, ?_, ?_, ?_, ?_, ?_, ?_, ?_, ?_, ?_, ?_, ?_, ?_,
      others⟩
    all_goals simp [portValue, show_eq, hid, hqr, hopr, hopt, haa, htc, hrd, hra, hrcr, hrct, hqd, han,
      hns, har, hoff, hlen]
  · obtain ⟨hp, hs, -, -, -, hreq, hav, -⟩ := hr
    refine ⟨hs ▸ portValue_status_done hp, ?_, ?_, fun p => ?_⟩
    · rw [portValue, validIn_eq hp hs, hreq]
      rfl
    · rw [portValue, validIn_eq hp hs, hav]
      rfl
    · intro hb hd hst hr ha
      cases p
      case busy | done | status | errBitsRequired | errBitsAvailable => contradiction
      all_goals exact portValue_other rfl (by rw [hs]; decide)
  · obtain ⟨hp, hs, -, -, -, hpat, hoff, -⟩ := hr
    refine ⟨hs ▸ portValue_status_done hp, ?_, ?_, fun p => ?_⟩
    · rw [portValue, validIn_eq hp hs, hpat]
      rfl
    · rw [portValue, validIn_eq hp hs, hoff]
      rfl
    · intro hb hd hst hr ha
      cases p
      case busy | done | status | errPattern | errBitOffset => contradiction
      all_goals exact portValue_other rfl (by rw [hs]; decide)

/-! ### Reset -/

theorem reset_justReset : State.reset.justReset :=
  ⟨rfl, ⟨rfl, rfl, rfl, rfl, rfl, rfl, rfl, rfl, rfl, rfl, rfl, rfl, rfl, rfl⟩, ⟨rfl, rfl⟩, ⟨rfl, rfl⟩,
    ⟨rfl, rfl⟩, rfl, ⟨rfl, rfl⟩⟩

/-- Settles O1: the reset state is in IDLE, where no port but `busy` and `done` shows anything. -/
theorem resetHoldsNothing : Obligations.ResetHoldsNothing :=
  ⟨rfl, reset_justReset, rfl, rfl, rfl, fun _ => portValue_not_done Phase.noConfusion⟩

/-- Settles O3: reset is in IDLE, with an empty buffer and agenda and no byte read. -/
theorem invAtReset : Obligations.InvAtReset := ⟨rfl, rfl, rfl, reset_justReset⟩

/-! ### The cursor -/

theorem pairAdvance_roll {p : Nat × Nat} (h : p.2 = 7) : pairAdvance p = (p.1 + 1, 0) := if_pos h

theorem pairAdvance_stay {p : Nat × Nat} (h : p.2 ≠ 7) : pairAdvance p = (p.1, p.2 + 1) := if_neg h

/-- Settles O25: below 96 the cursor does not wrap, and its quotient and remainder by 8 roll over. -/
theorem cursorPairForm : Obligations.CursorPairForm := by
  intro c
  refine ⟨(Nat.div_add_mod ..).symm, Nat.mod_lt _ (by decide), fun hc => ?_, fun hc => ?_⟩
  · have hs : (c + 1).toNat = c.toNat + 1 := by bv_omega
    by_cases h7 : bitOff c = 7
    · rw [pairAdvance_roll h7, Prod.mk.injEq]
      unfold byteIdx bitOff at *
      omega
    · rw [pairAdvance_stay h7, Prod.mk.injEq]
      unfold byteIdx bitOff at *
      omega
  · unfold byteIdx
    omega

/-- READ1 of the last wire bit the cursor can reach: its bit, and the free cursor (log 11). -/
theorem read1_at127 {s : State} (hc : s.cur = 127) (hl : 16 ≤ s.inLen)
    (hb : (Memory.get s.buf 15).isSome = true) :
    read1 s = .next ((s.byte 15).getLsbD 0,
      { s with cur := Config.curPast127 s.freeCount, readTrace := noteRead 15 s.readTrace }) := by
  obtain ⟨b, hb⟩ := Option.isSome_iff_exists.mp hb
  have hi : byteIdx s.cur = 15 := by rw [hc]; rfl
  have ha : advance s = Config.curPast127 s.freeCount := if_pos hc
  have hm : memRead (byteIdx s.cur) s = .next b := hi ▸ memRead_next (by omega) hb
  rw [read1_of_memRead hm, hi, ha, byte_eq hb, hc]
  rfl

theorem readNAlone_toEnd {n : Nat} {s : State} (h0 : 0 < n) (hn : n ≤ 16) (hc : s.cur.toNat + n = 128)
    (hl : 16 ≤ s.inLen)
    (hb : ∀ x, s.cur.toNat / 8 ≤ x → x < 16 → (Memory.get s.buf x).isSome = true) :
    readNAlone n s = .next { s.afterRead n with
      cur := Config.curPast127 s.freeCount
      ret := some (.value n (wbits s.byte s.cur.toNat n)) } := by
  rw [readNAlone, readN_toEnd h0 hn hc hl hb, andThen_next, BitVec.toNat_ofNat,
    Nat.mod_eq_of_lt (wbits_lt _ _ _)]
  rfl

/-- Settles O20: the open value is the model's free value, and the rest is what the read or ASSEMBLE does
anywhere. -/
theorem openValuesComplete : Obligations.OpenValuesComplete := by
  intro s
  refine ⟨fun hc hl hb => ⟨Config.curPast127 s.freeCount, ?_⟩, fun n i hi hc hl hb =>
    ⟨Config.curPast127 s.freeCount, ?_⟩, fun _ => ⟨remainderLen s.inLen, rfl⟩⟩
  · show execRead1 s = _
    rw [execRead1, read1_at127 hc hl hb, andThen_next]
    rfl
  · simp only [List.mem_cons, Prod.mk.injEq, List.not_mem_nil, or_false] at hi
    rcases hi with ⟨rfl, rfl⟩ | ⟨rfl, rfl⟩ | ⟨rfl, rfl⟩ | ⟨rfl, rfl⟩
    all_goals exact readNAlone_toEnd (by decide) (by decide) hc hl hb

end Sys2Proof.Machine

/-! ## The buffer space: the layout of its bytes (20_memory.md R53, 30_encoding.md R71, R74), the bytes read
(R51, R57, R59), who writes it (R55), and its canonical form (log 7) -/

namespace Sys2Proof.Machine

/-! ### The layout -/

/-- A field of `n` bits that lies inside byte `a`, with `k` bits before it and `m` bits after it. -/
theorem wbits_slice (b : Nat → Byte) (a k n m : Nat) (h : k + n + m = 8) :
    wbits b (8 * a + k) n = (b a).toNat / 2 ^ m % 2 ^ n := by
  have hbyte : (wbits b (8 * a) k * 2 ^ n + wbits b (8 * a + k) n) * 2 ^ m +
      wbits b (8 * a + (k + n)) m = (b a).toNat := by
    rw [← wbits_add, ← wbits_add, h, wbits_byte]
  rw [← hbyte, Nat.add_comm (_ * 2 ^ m), Nat.add_mul_div_right _ _ (Nat.two_pow_pos m),
    Nat.div_eq_of_lt (wbits_lt ..), Nat.zero_add, Nat.mul_add_mod',
    Nat.mod_eq_of_lt (wbits_lt ..)]

theorem wbits_16_toNat (b : Nat → Byte) (a : Nat) :
    wbits b (8 * a) 16 = (b a).toNat * 2 ^ 8 + (b (a + 1)).toNat := by
  rw [wbits_add b (8 * a) 8 8, wbits_byte, ← Nat.mul_succ, wbits_byte]

/-- Settles O10: a 16-bit field is two bytes, and every other field a slice of one. -/
theorem layoutByByte : Obligations.LayoutByByte := by
  intro b
  refine ⟨fun a => ⟨wbits_16_toNat b a, beHalf_toNat _ _⟩, wbits_half b 0, wbits_slice b 2 0 1 7 rfl,
    wbits_slice b 2 1 4 3 rfl, wbits_slice b 2 5 1 2 rfl, wbits_slice b 2 6 1 1 rfl, ?_,
    wbits_slice b 3 0 1 7 rfl, wbits_slice b 3 1 3 4 rfl, ?_, wbits_half b 4, wbits_half b 6,
    wbits_half b 8, wbits_half b 10, rfl, rfl, rfl, rfl, rfl, rfl, rfl, rfl, rfl, rfl, rfl, rfl, rfl⟩
  · simpa using wbits_slice b 2 7 1 0 rfl
  · simpa using wbits_slice b 3 4 4 0 rfl

/-! ### The bytes a transaction reads -/

/-- Settles O46, by the three outcomes of DECODE: the trace of each is written out in its closed form. -/
theorem bytesReadByOutcome : Obligations.BytesReadByOutcome := by
  intro s t h
  obtain ⟨-, ⟨-, rfl⟩ | ⟨hl, -, -, rfl⟩ | ⟨hl, -, -, rfl⟩⟩ := decode_next_inv h
  · exact ⟨fun _ => rfl, Status.noConfusion, Status.noConfusion, fun _ ha => absurd ha List.not_mem_nil⟩
  · refine ⟨Status.noConfusion, fun _ => rfl, Status.noConfusion, fun a ha => ?_⟩
    have hlt : ∀ a ∈ [3, 2, 1, 0], a < 12 := by decide
    exact (hlt a ha).trans_le hl
  · refine ⟨Status.noConfusion, Status.noConfusion, fun _ => rfl, fun a ha => ?_⟩
    have hlt : ∀ a ∈ [11, 10, 9, 8, 7, 6, 5, 4, 3, 2, 1, 0], a < 12 := by decide
    exact (hlt a ha).trans_le hl

/-! ### No instruction writes what the host owns -/

/-- Where `f` answers next, it has left what the host owns. -/
def KeepsHost (f : State → Out State) : Prop := ∀ s t, f s = .next t → s.sameHost t

theorem State.sameHost.trans {s t u : State} (h : s.sameHost t) (h' : t.sameHost u) : s.sameHost u := by
  obtain ⟨hbuf, hlen, hdata, hturns, hfree⟩ := h
  obtain ⟨hbuf', hlen', hdata', hturns', hfree'⟩ := h'
  exact ⟨hbuf'.trans hbuf, hlen'.trans hlen, hdata'.trans hdata, hturns'.trans hturns, hfree'.trans hfree⟩

theorem beginTransaction_sameHost (s : State) : s.sameHost (beginTransaction s) :=
  ⟨rfl, rfl, rfl, rfl, rfl⟩

theorem raiseTruncated_sameHost (n : Nat) (s : State) : s.sameHost (raiseTruncated n s) :=
  ⟨rfl, rfl, rfl, rfl, rfl⟩

theorem raiseMalformed_sameHost (z : BitVec 3) (s : State) : s.sameHost (raiseMalformed z s) :=
  ⟨rfl, rfl, rfl, rfl, rfl⟩

theorem finishMalformed_sameHost (z : BitVec 3) (s : State) : s.sameHost (finishMalformed z s) :=
  ⟨rfl, rfl, rfl, rfl, rfl⟩

theorem finishOk_sameHost (h : Header) (s : State) : s.sameHost (finishOk h s) :=
  ⟨rfl, rfl, rfl, rfl, rfl⟩

theorem presentResult_sameHost (s : State) : s.sameHost (presentResult s) :=
  ⟨rfl, rfl, rfl, rfl, rfl⟩

theorem returning_sameHost (v : Ret) (s : State) : s.sameHost (returning v s) :=
  ⟨rfl, rfl, rfl, rfl, rfl⟩

theorem read1_sameHost {b : Bool} {s t : State} (h : read1 s = .next (b, t)) : s.sameHost t := by
  obtain ⟨-, -, -, rfl⟩ := read1_next_inv h
  exact ⟨rfl, rfl, rfl, rfl, rfl⟩

theorem readN_sameHost {n : Nat} {v : BitVec n} {s t : State} (h : readN n s = .next (v, t)) :
    s.sameHost t := by
  rw [readN_frame h]
  exact ⟨rfl, rfl, rfl, rfl, rfl⟩

theorem keepsHost_next {g : State → State} (hg : ∀ s : State, s.sameHost (g s)) :
    KeepsHost fun s => .next (g s) := by
  intro s t h
  cases h
  exact hg s

/-- A READN and what is done with its value. -/
theorem keepsHost_readN {n : Nat} {f : BitVec n × State → Out State}
    (hf : ∀ v, KeepsHost fun u => f (v, u)) : KeepsHost fun s => andThen (readN n s) f := by
  intro s t h
  obtain ⟨⟨v, u⟩, hu, h⟩ := andThen_eq_next h
  exact (readN_sameHost hu).trans (hf v u t h)

/-- A READN whose value goes to registers of the block. -/
theorem keepsHost_readN_next {n : Nat} {g : BitVec n × State → State}
    (hg : ∀ v u, State.sameHost u (g (v, u))) :
    KeepsHost fun s => andThen (readN n s) fun p => .next (g p) :=
  keepsHost_readN fun v => keepsHost_next (hg v)

theorem keepsHost_execRead1 : KeepsHost execRead1 := by
  intro s t h
  obtain ⟨⟨b, u⟩, hu, h⟩ := andThen_eq_next h
  cases h
  exact (read1_sameHost hu).trans (returning_sameHost _ u)

theorem keepsHost_extractZ : KeepsHost extractZ := by
  refine keepsHost_readN fun p => ?_
  by_cases h0 : p = 0
  · simp only [h0, if_true]
    exact keepsHost_next fun _ => ⟨rfl, rfl, rfl, rfl, rfl⟩
  · simp only [h0, if_false]
    exact keepsHost_next fun _ => raiseMalformed_sameHost p _

theorem keepsHost_checkLength : KeepsHost checkLength := by
  intro s t h
  by_cases hl : s.inLen < 12
  · rw [checkLength_short hl] at h
    cases h
    exact raiseTruncated_sameHost _ s
  · rw [checkLength_long (Nat.le_of_not_lt hl)] at h
    cases h
    exact ⟨rfl, rfl, rfl, rfl, rfl⟩

theorem keepsHost_onStart {f : State → Out State} (hf : KeepsHost f) : KeepsHost (onStart f) := by
  intro s t h
  obtain ⟨-, -, h⟩ := onStart_inv h
  exact (beginTransaction_sameHost s).trans (hf _ t h)

/-- A transaction that looks at the length first (60_exceptions.md R177). -/
theorem keepsHost_lengthFirst {g : State → State} (hg : ∀ s : State, s.sameHost (g s)) :
    KeepsHost fun s =>
      if s.inLen < Config.hdrBytes then .next (raiseTruncated s.inLen s) else .next (g s) := by
  intro s t h
  dsimp only at h
  split at h <;> cases h
  · exact raiseTruncated_sameHost _ s
  · exact hg s

theorem keepsHost_outcomeOk (h : Header) : KeepsHost (outcomeOk h) :=
  keepsHost_onStart (keepsHost_lengthFirst (finishOk_sameHost h))

theorem keepsHost_outcomeMalformed (z : BitVec 3) : KeepsHost (outcomeMalformed z) :=
  keepsHost_onStart (keepsHost_lengthFirst (finishMalformed_sameHost z))

theorem keepsHost_outcomeTruncated (n : Nat) : KeepsHost (outcomeTruncated n) :=
  keepsHost_onStart (keepsHost_next (raiseTruncated_sameHost n))

theorem keepsHost_decode : KeepsHost (exec .decode) := by
  intro s t h
  obtain ⟨-, ⟨-, rfl⟩ | ⟨-, -, -, rfl⟩ | ⟨-, -, -, rfl⟩⟩ := decode_next_inv h
  · exact (beginTransaction_sameHost s).trans (raiseTruncated_sameHost _ _)
  · exact (beginTransaction_sameHost s).trans (finishMalformed_sameHost _ _)
  · exact (beginTransaction_sameHost s).trans (finishOk_sameHost _ _)

theorem keepsHost_exec (i : Instr) : KeepsHost (exec i) := by
  cases i
  case decode => exact keepsHost_decode
  case decodeOk h => exact keepsHost_outcomeOk h
  case decodeMalformed1 | decodeMalformed2 | decodeMalformed3 | decodeMalformed4 | decodeMalformed5 |
      decodeMalformed6 | decodeMalformed7 =>
    exact keepsHost_outcomeMalformed _
  case decodeTruncatedL0 | decodeTruncatedL1 | decodeTruncatedL2 | decodeTruncatedL3 |
      decodeTruncatedL4 | decodeTruncatedL5 | decodeTruncatedL6 | decodeTruncatedL7 |
      decodeTruncatedL8 | decodeTruncatedL9 | decodeTruncatedL10 | decodeTruncatedL11 =>
    exact keepsHost_outcomeTruncated _
  case start => exact keepsHost_onStart (keepsHost_next fun _ => ⟨rfl, rfl, rfl, rfl, rfl⟩)
  case chkLen => exact keepsHost_checkLength
  case rdZ => exact keepsHost_extractZ
  case rdId | rdQr | rdOpcode | rdAa | rdTc | rdRd | rdRa | rdRcode | rdQdcount | rdAncount |
      rdNscount | rdArcount | readn1 | readn3 | readn4 | readn16 =>
    exact keepsHost_readN_next fun _ _ => ⟨rfl, rfl, rfl, rfl, rfl⟩
  case assemble => exact keepsHost_next presentResult_sameHost
  case read1 => exact keepsHost_execRead1
  -- ENCODE and the code mappings, which only return a value
  all_goals exact keepsHost_next (returning_sameHost _)

/-- Settles O53: every instruction keeps what the host owns, so every byte of the buffer too. -/
theorem noInstructionWritesMemory : Obligations.NoInstructionWritesMemory := by
  intro i s t h
  have hs : s.sameHost t := keepsHost_exec i s t h
  have hbuf : t.buf = s.buf := hs.1
  exact ⟨hs, fun a => by rw [hbuf]⟩

/-! ### The canonical form -/

/-- A canonical memory holds no byte below its first cell. -/
theorem Memory.get_none_below {c : Host.Cell} {m : Memory} (h : Memory.wf (c :: m) = true) {a : Nat}
    (ha : a < c.1) : Memory.get (c :: m) a = none := by
  refine Memory.get_none_of_lt fun d hd => ?_
  rcases List.mem_cons.mp hd with rfl | hd
  · exact ha
  · exact ha.trans ((Memory.wf_cons h).2 d hd)

theorem Memory.get_head (a : Nat) (b : Byte) (m : Memory) : Memory.get ((a, b) :: m) a = some b :=
  if_pos rfl

theorem Memory.get_tail {a a' : Nat} (b : Byte) (m : Memory) (h : a ≠ a') :
    Memory.get ((a', b) :: m) a = Memory.get m a := if_neg h

/-- A canonical memory holds its first cell only there. -/
theorem Memory.get_tail_self {a : Nat} {b : Byte} {m : Memory} (h : Memory.wf ((a, b) :: m) = true) :
    Memory.get m a = none := Memory.get_none_of_lt (Memory.wf_cons h).2

/-- The first cells of two canonical memories that read alike: the first offset of the one is not below
that of the other. -/
theorem Memory.head_le_of_get_eq {a a' : Nat} {b b' : Byte} {m m' : Memory}
    (hm' : Memory.wf ((a', b') :: m') = true)
    (h : ∀ x, Memory.get ((a, b) :: m) x = Memory.get ((a', b') :: m') x) : a' ≤ a := by
  by_contra hlt
  have hx := h a
  rw [Memory.get_head, Memory.get_none_below hm' (Nat.lt_of_not_le hlt)] at hx
  cases hx

/-- Settles O56, by induction on the first list: the first cells are at one offset, with one byte, and
nothing else is there, so the rests read alike too. -/
theorem memoryExtensional : Obligations.MemoryExtensional := by
  intro m
  induction m with
  | nil =>
    rintro (_ | ⟨⟨a', b'⟩, m'⟩) - - h
    · rfl
    · have hx := h a'
      rw [Memory.get_head] at hx
      cases hx
  | cons c m ih =>
    obtain ⟨a, b⟩ := c
    rintro (_ | ⟨⟨a', b'⟩, m'⟩) hm hm' h
    · have hx := h a
      rw [Memory.get_head] at hx
      cases hx
    · obtain rfl : a = a' :=
        Nat.le_antisymm (Memory.head_le_of_get_eq hm fun x => (h x).symm) (Memory.head_le_of_get_eq hm' h)
      have hb : some b = some b' := by rw [← Memory.get_head a b m, h a, Memory.get_head]
      have hrest : ∀ x, Memory.get m x = Memory.get m' x := fun x => by
        by_cases hx : x = a
        · rw [hx, Memory.get_tail_self hm, Memory.get_tail_self hm']
        · rw [← Memory.get_tail b m hx, h x, Memory.get_tail b' m' hx]
      rw [Option.some.inj hb, ih m' (Memory.wf_cons hm).1 (Memory.wf_cons hm').1 hrest]

theorem wf_of_buf_eq {s t : State} (h : t.buf = s.buf) (hs : Memory.wf s.buf = true) :
    Memory.wf t.buf = true := by
  rwa [h]

theorem exec_buf {i : Instr} {s t : State} (h : exec i s = .next t) : t.buf = s.buf :=
  (keepsHost_exec i s t h).1

theorem decoderTurn_buf {s t : State} (h : decoderTurn s = .next t) : t.buf = s.buf := by
  unfold decoderTurn at h
  split at h
  · cases h
    rfl
  · exact exec_buf (s := s.pop) h
  · cases h

theorem runRow_buf {sel : Sel} {s t : State} (h : runRow sel s = .next t) : t.buf = s.buf := by
  obtain ⟨bytes, -, h⟩ := andThen_eq_next h
  split at h
  · exact exec_buf (s := s.pop) h
  · cases h

theorem hostSupply_wf {m : Memory} {n : Nat} {s t : State} (hm : Memory.wf m = true)
    (h : hostSupply m n s = .next t) : Memory.wf t.buf = true := by
  rw [hostSupply_next_inv h]
  exact hm

theorem hostRead_buf {p : Port} {s t : State} (h : hostRead p s = .next t) : t.buf = s.buf := by
  unfold hostRead at h
  split at h <;> cases h
  rfl

/-- Every move of the host keeps the canonical form: only `load` and `poke` give the buffer new bytes. -/
theorem hostMove_wf {m : HostMove} {s t : State} (hs : Memory.wf s.buf = true)
    (h : hostMove m s = .next t) : Memory.wf t.buf = true := by
  cases m with
  | start => exact wf_of_buf_eq (exec_buf (i := .start) h) hs
  | rst => cases h; exact hs
  | read p => exact wf_of_buf_eq (hostRead_buf h) hs
  | load l => exact hostSupply_wf (Memory.wf_fromBytes 0 l) h
  | poke a b => exact hostSupply_wf (Memory.wf_set a b hs) h
  | setLen n => exact hostSupply_wf hs h

/-- Settles O57: the decoder and a row run alone leave the buffer, and every move of the host keeps its
form. -/
theorem stepKeepsCanonicalMemory : Obligations.StepKeepsCanonicalMemory := by
  intro s t hs h
  unfold step at h
  split at h
  · exact wf_of_buf_eq (decoderTurn_buf h) hs
  · exact wf_of_buf_eq (exec_buf (s := s.pop) h) hs
  · exact hostMove_wf (s := s.pop) hs h
  · exact wf_of_buf_eq (runRow_buf h) hs

end Sys2Proof.Machine

/-! ## The wire format (30_encoding.md): encode and decode agree (R86, R160, R163), the flags word and its
masks (R73, R86), the three outcome classes (R81), and the word placed for the next step (logs 3, 4) -/

namespace Sys2Proof.Machine

/-! ### Decode of encode -/

theorem mapOpcode_reserved : ∀ raw : BitVec 4, 3 ≤ raw.toNat → mapOpcode raw = .reserved raw := by decide

theorem mapRcode_reserved : ∀ raw : BitVec 4, 6 ≤ raw.toNat → mapRcode raw = .reserved raw := by decide

theorem map_unmapOpcode {v : Opcode} (h : v.wf = true) : mapOpcode (unmapOpcode v) = v := by
  cases v with
  | reserved raw => exact mapOpcode_reserved raw (of_decide_eq_true h)
  | _ => rfl

theorem map_unmapRcode {v : Rcode} (h : v.wf = true) : mapRcode (unmapRcode v) = v := by
  cases v with
  | reserved raw => exact mapRcode_reserved raw (of_decide_eq_true h)
  | _ => rfl

/-- Byte 2 of the encoder (43_reference_encoder.md R160), from its five fields. -/
def flagsHigh (qr : Bool) (opcode : BitVec 4) (aa tc rd : Bool) : Byte :=
  ((BitVec.ofBool qr).setWidth 8 <<< 7) ||| (opcode.setWidth 8 <<< 3) |||
    ((BitVec.ofBool aa).setWidth 8 <<< 2) ||| ((BitVec.ofBool tc).setWidth 8 <<< 1) |||
    (BitVec.ofBool rd).setWidth 8

/-- Byte 3 of the encoder (43_reference_encoder.md R160), from its two fields. -/
def flagsLow (ra : Bool) (rcode : BitVec 4) : Byte :=
  ((BitVec.ofBool ra).setWidth 8 <<< 7) ||| ((0 : Byte) <<< 4) ||| rcode.setWidth 8

theorem encodeHeader_length (h : Header) : (encodeHeader h).length = 12 := rfl

theorem encodeHeader_byte2 (h : Header) :
    byteAt (encodeHeader h) 2 = flagsHigh h.qr (unmapOpcode h.opcode) h.aa h.tc h.rd := rfl

theorem encodeHeader_byte3 (h : Header) :
    byteAt (encodeHeader h) 3 = flagsLow h.ra (unmapRcode h.rcode) := rfl

theorem flagsHigh_fields : ∀ (qr : Bool) (opcode : BitVec 4) (aa tc rd : Bool),
    (flagsHigh qr opcode aa tc rd).getLsbD 7 = qr ∧
    (flagsHigh qr opcode aa tc rd).extractLsb' 3 4 = opcode ∧
    (flagsHigh qr opcode aa tc rd).getLsbD 2 = aa ∧ (flagsHigh qr opcode aa tc rd).getLsbD 1 = tc ∧
    (flagsHigh qr opcode aa tc rd).getLsbD 0 = rd := by decide

theorem flagsLow_fields : ∀ (ra : Bool) (rcode : BitVec 4),
    (flagsLow ra rcode).getLsbD 7 = ra ∧ (flagsLow ra rcode).extractLsb' 0 4 = rcode := by decide

theorem beHalf_bytes (v : Half) : beHalf (v.extractLsb' 8 8) (v.extractLsb' 0 8) = v :=
  BitVec.extractLsb'_append_extractLsb' (w := 8) (len := 8)

/-- The bytes of a header are read back as that header, but for an assigned code in a `reserved` variant
(43_reference_encoder.md R163). -/
theorem headerOf_encodeHeader {h : Header} (hw : h.wf = true) : headerOf (byteAt (encodeHeader h)) = h := by
  obtain ⟨ho, hr⟩ := Bool.and_eq_true_iff.mp hw
  obtain ⟨hqr, hop, haa, htc, hrd⟩ := flagsHigh_fields h.qr (unmapOpcode h.opcode) h.aa h.tc h.rd
  obtain ⟨hra, hrc⟩ := flagsLow_fields h.ra (unmapRcode h.rcode)
  have hopcode : mapOpcode (opcodeRawOf (byteAt (encodeHeader h))) = h.opcode := by
    rw [opcodeRawOf, encodeHeader_byte2, hop, map_unmapOpcode ho]
  have hrcode : mapRcode (rcodeRawOf (byteAt (encodeHeader h))) = h.rcode := by
    rw [rcodeRawOf, encodeHeader_byte3, hrc, map_unmapRcode hr]
  rw [headerOf, hopcode, hrcode, encodeHeader_byte2, encodeHeader_byte3, hqr, haa, htc, hrd, hra]
  congr 1 <;> exact beHalf_bytes _

/-- The classification of a buffer shorter than a header is by its length (30_encoding.md R81, R177). -/
theorem decode_outcome_short {bytes : List Byte} (h : bytes.length < 12) :
    decode .outcome bytes = .ok (truncatedRow bytes.length) := congrArg Except.ok (if_pos h)

/-- The classification of a whole header is by its reserved zone (30_encoding.md R81). -/
theorem decode_outcome_long {bytes : List Byte} (h : 12 ≤ bytes.length) :
    decode .outcome bytes = .ok (zoneRow (zoneOf (byteAt bytes)) (headerOf (byteAt bytes))) :=
  congrArg Except.ok (if_neg (Nat.not_lt.mpr h))

theorem decode_encode_short {bytes : List Byte} (h : bytes.length < 12) :
    decode .encode bytes = .error .noHeader := if_pos h

theorem decode_encode_long {bytes : List Byte} (h : 12 ≤ bytes.length) :
    decode .encode bytes = if zoneOf (byteAt bytes) = 0 then .ok (.encode (headerOf (byteAt bytes)))
      else .error .reservedZone := if_neg (Nat.not_lt.mpr h)

theorem decode_mapOpcode_long {bytes : List Byte} (h : 4 ≤ bytes.length) :
    decode .mapOpcode bytes = .ok (mapOpcodeRow (opcodeRawOf (byteAt bytes))) :=
  if_neg (Nat.not_lt.mpr h)

theorem decode_mapRcode_long {bytes : List Byte} (h : 4 ≤ bytes.length) :
    decode .mapRcode bytes = .ok (mapRcodeRow (rcodeRawOf (byteAt bytes))) :=
  if_neg (Nat.not_lt.mpr h)

theorem decode_outcome_encodeHeader {h : Header} (hw : h.wf = true) :
    decode .outcome (encodeHeader h) = .ok (.decodeOk h) := by
  rw [decode_outcome_long (encodeHeader_length h).ge, Laws.zone_of_encodeHeader, headerOf_encodeHeader hw]
  rfl

theorem decode_encode_encodeHeader {h : Header} (hw : h.wf = true) :
    decode .encode (encodeHeader h) = .ok (.encode h) := by
  rw [decode_encode_long (encodeHeader_length h).ge, if_pos (Laws.zone_of_encodeHeader h),
    headerOf_encodeHeader hw]

/-- Settles O9: the two rows with an operand read their header back; every other row has one encoding, and
its recogniser finds the row in it. -/
theorem decodeOfEncode : Obligations.DecodeOfEncode := by
  intro i hw
  cases i with
  | decodeOk h => exact decode_outcome_encodeHeader hw
  | encode h => exact decode_encode_encodeHeader hw
  | _ => rfl

/-! ### The flags word and its masks -/

theorem opcodeRawOf_flagsWord (b : Nat → Byte) : opcodeRawOf b = (flagsWord b).extractLsb' 11 4 :=
  (BitVec.extractLsb'_append_eq_of_le (w := 8) (start := 11) (by decide)).symm

theorem zoneOf_flagsWord (b : Nat → Byte) : zoneOf b = (flagsWord b).extractLsb' 4 3 :=
  (BitVec.extractLsb'_append_eq_of_add_le (by decide)).symm

theorem rcodeRawOf_flagsWord (b : Nat → Byte) : rcodeRawOf b = (flagsWord b).extractLsb' 0 4 :=
  (BitVec.extractLsb'_append_eq_of_add_le (by decide)).symm

/-- Value bits 15 to 8 of `F` are byte 2. -/
theorem flagsWord_high (b : Nat → Byte) (k : Nat) : (flagsWord b).getLsbD (8 + k) = (b 2).getLsbD k := by
  rw [flagsWord, beHalf, BitVec.getLsbD_append, if_neg (by omega), Nat.add_sub_cancel_left]

/-- Value bits 7 to 0 of `F` are byte 3. -/
theorem flagsWord_low (b : Nat → Byte) {k : Nat} (h : k < 8) :
    (flagsWord b).getLsbD k = (b 3).getLsbD k := by
  rw [flagsWord, beHalf, BitVec.getLsbD_append, if_pos h]

/-- Settles O11: byte 2 is the more significant half of `F`, byte 3 the other. -/
theorem flagsWordFields : Obligations.FlagsWordFields := by
  intro b
  have hhigh (k : Nat) : (b 2).getLsbD k = (flagsWord b).getLsbD (8 + k) := (flagsWord_high b k).symm
  exact ⟨beHalf_toNat _ _, hhigh 7, opcodeRawOf_flagsWord b, hhigh 2, hhigh 1, hhigh 0,
    (flagsWord_low b (by decide)).symm, zoneOf_flagsWord b, rcodeRawOf_flagsWord b,
    (wbits_half b 2).symm⟩

/-- A word agrees with a match under the mask of `n` bits from `k` on exactly when its field there is that
value (30_encoding.md R86). -/
theorem and_mask_eq_iff {w k n : Nat} (h : k + n ≤ w) (x : BitVec w) (v : BitVec n) :
    x &&& ((BitVec.allOnes n).setWidth w <<< k) = v.setWidth w <<< k ↔ x.extractLsb' k n = v := by
  constructor
  · intro hx
    ext i hi
    have hbit := congrArg (BitVec.getLsbD · (k + i)) hx
    have hw : k + i < w := by omega
    simpa [hw, hi, show i < w by omega] using hbit
  · rintro rfl
    ext i hi
    by_cases hk : i < k
    · simp [hk]
    · simp [hk, show k + (i - k) = i by omega, Bool.and_comm, hi]

theorem mapOpcodeRow_inj : ∀ raw raw' : BitVec 4, mapOpcodeRow raw = mapOpcodeRow raw' ↔ raw = raw' := by
  decide

theorem mapRcodeRow_inj : ∀ raw raw' : BitVec 4, mapRcodeRow raw = mapRcodeRow raw' ↔ raw = raw' := by
  decide

/-- The reserved zone of an outcome row: zero but for the seven rows DECODE.MALFORMED (30_encoding.md R80). -/
def rowZone : Instr → BitVec 3
  | .decodeMalformed1 => 1
  | .decodeMalformed2 => 2
  | .decodeMalformed3 => 3
  | .decodeMalformed4 => 4
  | .decodeMalformed5 => 5
  | .decodeMalformed6 => 6
  | .decodeMalformed7 => 7
  | _ => 0

theorem zone_cases : ∀ z : BitVec 3,
    z = 0 ∨ z = 1 ∨ z = 2 ∨ z = 3 ∨ z = 4 ∨ z = 5 ∨ z = 6 ∨ z = 7 := by decide

theorem rowZone_zoneRow (z : BitVec 3) (h : Header) : rowZone (zoneRow z h) = z := by
  rcases zone_cases z with rfl | rfl | rfl | rfl | rfl | rfl | rfl | rfl <;> rfl

/-- A row DECODE.MALFORMED has no operand. -/
theorem zoneRow_header {z : BitVec 3} (hz : z ≠ 0) (h h' : Header) : zoneRow z h = zoneRow z h' := by
  rcases zone_cases z with rfl | rfl | rfl | rfl | rfl | rfl | rfl | rfl
  · exact absurd rfl hz
  all_goals rfl

theorem zoneRow_eq_iff {z z' : BitVec 3} (hz : z ≠ 0) (h h' : Header) :
    zoneRow z' h' = zoneRow z h ↔ z' = z := by
  constructor
  · intro heq
    rw [← rowZone_zoneRow z' h', heq, rowZone_zoneRow]
  · rintro rfl
    exact zoneRow_header hz h' h

/-- Settles O12: a recogniser finds the row of the field's value, and the field has that value exactly when
`F` agrees with the match under the mask. -/
theorem flagsRowsApply : Obligations.FlagsRowsApply := by
  refine fun bytes => ⟨fun raw hl => ⟨?_, ?_⟩, fun z h hz hl => ?_⟩
  · rw [decode_mapOpcode_long hl, Except.ok.injEq, mapOpcodeRow_inj, opcodeRawOf_flagsWord]
    exact (and_mask_eq_iff (k := 11) (by decide) _ raw).symm
  · rw [decode_mapRcode_long hl, Except.ok.injEq, mapRcodeRow_inj, rcodeRawOf_flagsWord]
    simpa using (and_mask_eq_iff (k := 0) (by decide) (flagsWord (byteAt bytes)) raw).symm
  · rw [decode_outcome_long hl, Except.ok.injEq, zoneRow_eq_iff hz, zoneOf_flagsWord]
    exact (and_mask_eq_iff (k := 4) (by decide) _ z).symm

/-! ### The words of the table, and the classes of a buffer -/

/-- Settles O8: each word is evaluated. -/
theorem sampleWordsDecode : Obligations.SampleWordsDecode := ⟨rfl, rfl, rfl, rfl, rfl, rfl, rfl, rfl⟩

/-- The reserved zone is zero exactly when the bits `0x70` of byte 3 are (30_encoding.md R81). -/
theorem zoneOf_eq_zero_iff (b : Nat → Byte) : zoneOf b = 0 ↔ b 3 &&& 0x70 = 0 :=
  (and_mask_eq_iff (k := 4) (by decide) (b 3) 0).symm

/-- Settles O13, by the length and then by the zone. -/
theorem threeClasses : Obligations.ThreeClasses := by
  refine fun bytes => ⟨decode_outcome_short, fun hl hz => ?_, fun hl hz => ?_⟩
  · exact ⟨fun h0 => hz ((zoneOf_eq_zero_iff _).mp h0), decode_outcome_long hl⟩
  · rw [decode_outcome_long hl, (zoneOf_eq_zero_iff _).mpr hz]
    rfl

/-! ### A table word is run by the very next step -/

/-- A row run alone is `exec` of what its recogniser finds (log 2). -/
theorem step_run {s : State} {sel : Sel} {rest : List Turn} {bytes : List Byte} {i : Instr}
    (ha : s.agenda = .run sel :: rest) (hf : fetchBytes sel s = .next bytes)
    (hd : decode sel bytes = .ok i) : step s = exec i s.pop := by
  have ht : s.turn = .run sel := by rw [State.turn, ha, List.headD_cons]
  rw [step, ht]
  simp only [runRow, hf, andThen_next, hd]

/-- The bytes a recogniser looks at, one after another. -/
theorem readBytes_eq {s : State} {n a : Nat} (hl : a + n ≤ s.inLen)
    (hh : ∀ x, a ≤ x → x < a + n → (Memory.get s.buf x).isSome = true) :
    readBytes s a n = .next ((List.range' a n).map s.byte) := by
  induction n generalizing a with
  | zero => rfl
  | succ n ih =>
    obtain ⟨b, hb⟩ := Option.isSome_iff_exists.mp (hh a le_rfl (by omega))
    have hread : memRead a s = .next b := memRead_next (by omega) hb
    rw [readBytes, hread, andThen_next, ih (by omega) fun x h1 h2 => hh x (by omega) (by omega),
      andThen_next, List.range'_succ, List.map_cons, byte_eq hb]

theorem headerBytes_short {s : State} (h : s.inLen < 12) : headerBytes s = .next (zeroBuf s.inLen) :=
  if_pos h

theorem headerBytes_long {s : State} (hl : 12 ≤ s.inLen) (hh : s.headerHeld) :
    headerBytes s = .next ((List.range 12).map s.byte) := by
  rw [List.range_eq_range', ← readBytes_eq (Nat.zero_add 12 ▸ hl) fun x _ hx => hh x (by omega)]
  exact if_neg (Nat.not_lt.mpr hl)

theorem flagsBytes_short {s : State} (h : s.inLen < 4) : flagsBytes s = .next (zeroBuf s.inLen) :=
  if_pos h

theorem flagsBytes_long {s : State} (hl : 4 ≤ s.inLen)
    (hh : ∀ x, x < 4 → (Memory.get s.buf x).isSome = true) :
    flagsBytes s = .next [0, 0, s.byte 2, s.byte 3] := by
  rw [flagsBytes, if_neg (Nat.not_lt.mpr hl), readBytes_eq hl fun x _ hx => hh x hx]
  rfl

/-- The buffer the host presents is the list `l`, with its true length. -/
def State.presents (s : State) (l : List Byte) : Prop :=
  s.buf = Memory.fromBytes 0 l ∧ s.inLen = l.length

theorem State.presents.get {s : State} {l : List Byte} (h : s.presents l) (a : Nat) :
    Memory.get s.buf a = l[a]? := by
  rw [h.1, ← Memory.get_fromBytes 0 l a, Nat.zero_add]

theorem State.presents.byte {s : State} {l : List Byte} (h : s.presents l) : s.byte = byteAt l := by
  funext a
  rw [State.byte, h.get, byteAt, List.getD_eq_getElem?_getD]

theorem State.presents.held {s : State} {l : List Byte} (h : s.presents l) {a : Nat}
    (ha : a < l.length) : (Memory.get s.buf a).isSome = true := by
  rw [h.get, List.getElem?_eq_getElem ha, Option.isSome_some]

/-- What the header recognisers find in bytes 0 to 11 given one by one. -/
theorem decode_header (b : Nat → Byte) :
    decode .outcome ((List.range 12).map b) = .ok (zoneRow (zoneOf b) (headerOf b)) ∧
    decode .encode ((List.range 12).map b) =
      if zoneOf b = 0 then .ok (.encode (headerOf b)) else .error .reservedZone := ⟨rfl, rfl⟩

/-- What the FLAGS16 recognisers find in bytes 2 and 3. -/
theorem decode_flags (b : Nat → Byte) :
    decode .mapOpcode [0, 0, b 2, b 3] = .ok (mapOpcodeRow (opcodeRawOf b)) ∧
    decode .mapRcode [0, 0, b 2, b 3] = .ok (mapRcodeRow (rcodeRawOf b)) := ⟨rfl, rfl⟩

theorem zeroBuf_length (n : Nat) : (zeroBuf n).length = n := List.length_replicate

/-- What a header recogniser fetches of a presented buffer it decodes as the whole buffer (log 29). -/
theorem headerBytes_decode {s : State} {l : List Byte} (h : s.presents l) :
    ∃ bytes, headerBytes s = .next bytes ∧ decode .outcome bytes = decode .outcome l ∧
      decode .encode bytes = decode .encode l := by
  by_cases hs : l.length < 12
  · have hz : (zeroBuf l.length).length < 12 := by rwa [zeroBuf_length]
    refine ⟨zeroBuf l.length, h.2 ▸ headerBytes_short (h.2 ▸ hs), ?_, ?_⟩
    · rw [decode_outcome_short hz, decode_outcome_short hs, zeroBuf_length]
    · rw [decode_encode_short hz, decode_encode_short hs]
  · have hl : 12 ≤ l.length := Nat.le_of_not_lt hs
    refine ⟨(List.range 12).map s.byte, headerBytes_long (h.2 ▸ hl) fun a ha => h.held (by omega), ?_⟩
    rw [decode_outcome_long hl, decode_encode_long hl, ← h.byte]
    exact decode_header s.byte

/-- What a FLAGS16 recogniser fetches of a presented buffer it decodes as the whole buffer (log 29). -/
theorem flagsBytes_decode {s : State} {l : List Byte} (h : s.presents l) :
    ∃ bytes, flagsBytes s = .next bytes ∧ decode .mapOpcode bytes = decode .mapOpcode l ∧
      decode .mapRcode bytes = decode .mapRcode l := by
  by_cases hs : l.length < 4
  · have hz : (zeroBuf l.length).length < 4 := by rwa [zeroBuf_length]
    refine ⟨zeroBuf l.length, h.2 ▸ flagsBytes_short (h.2 ▸ hs), ?_, ?_⟩
    · exact (if_pos hz).trans (if_pos hs).symm
    · exact (if_pos hz).trans (if_pos hs).symm
  · have hl : 4 ≤ l.length := Nat.le_of_not_lt hs
    refine ⟨[0, 0, s.byte 2, s.byte 3], flagsBytes_long (h.2 ▸ hl) fun a ha => h.held (by omega), ?_⟩
    rw [decode_mapOpcode_long hl, decode_mapRcode_long hl, ← h.byte]
    exact decode_flags s.byte

/-- What a recogniser fetches of a presented buffer decodes as the whole buffer does (log 29). -/
theorem fetchBytes_decode {s : State} {l : List Byte} (h : s.presents l) (sel : Sel) :
    ∃ bytes, fetchBytes sel s = .next bytes ∧ decode sel bytes = decode sel l := by
  obtain ⟨hb, hhead, hout, henc⟩ := headerBytes_decode h
  obtain ⟨fb, hflags, hop, hrc⟩ := flagsBytes_decode h
  cases sel with
  | outcome => exact ⟨hb, hhead, hout⟩
  | encode => exact ⟨hb, hhead, henc⟩
  | mapOpcode => exact ⟨fb, hflags, hop⟩
  | mapRcode => exact ⟨fb, hflags, hrc⟩
  | _ => exact ⟨[], rfl, rfl⟩

/-- Only a word of no bits has no buffer of its own, and it is the row DECODE (log 3). -/
theorem tableWord_none {nbits w : Nat} {sel : Sel} (h : tableWord nbits w = some (sel, none)) :
    sel = .decode := by
  unfold tableWord at h
  split_ifs at h <;> cases h
  rfl

/-- The word placed: its selector is the next turn, and what the recogniser fetches decodes as the word. -/
theorem withFetchWord_placed {nbits w : Nat} {sel : Sel} {bytes : Option (List Byte)} (s : State)
    (h : tableWord nbits w = some (sel, bytes)) :
    (s.withFetchWord nbits w).agenda = .run sel :: s.agenda ∧
    (s.withFetchWord nbits w).freeCount = s.freeCount ∧
    ∃ l, fetchBytes sel (s.withFetchWord nbits w) = .next l ∧
      decode sel l = decode sel (bytes.getD []) := by
  rw [State.withFetchWord, h]
  cases bytes with
  | none =>
    obtain rfl := tableWord_none h
    exact ⟨rfl, rfl, [], rfl, rfl⟩
  | some l => exact ⟨rfl, rfl, fetchBytes_decode ⟨rfl, rfl⟩ sel⟩

theorem decodeTableWord_inv {nbits w : Nat} {i : Instr} (h : decodeTableWord nbits w = some i) :
    ∃ sel bytes, tableWord nbits w = some (sel, bytes) ∧ decode sel (bytes.getD []) = .ok i := by
  unfold decodeTableWord at h
  split at h
  · cases h
  next sel bytes ht =>
    split at h
    next j hd => cases h; exact ⟨sel, bytes, ht, hd⟩
    · cases h

/-- Settles O5: the selector is the turn the next step takes off, and it fetches the word's row. -/
theorem tableWordRuns : Obligations.TableWordRuns := by
  intro s nbits w i hi
  obtain ⟨sel, bytes, ht, hd⟩ := decodeTableWord_inv hi
  obtain ⟨hagenda, hfree, l, hfetch, hl⟩ := withFetchWord_placed s ht
  rw [step_run hagenda hfetch (hl.trans hd), State.pop, hagenda, hfree, List.tail_cons]

end Sys2Proof.Machine

/-! ## The cursor primitives (40_cursor_primitives.md): READ1 (R100, R101), READN (R102, R103, R105), the
arithmetic laws (R104), where a read stops (R101, 70_reset_and_hazards.md R208), and what the primitives and
functions leave unchanged -/

namespace Sys2Proof.Machine

/-! ### READ1 -/

/-- All that READ1 run alone can do, by whether its bit exists and its byte is supplied. -/
theorem execRead1_cases (s : State) :
    (s.cur.toNat < 8 * s.inLen ∧ Memory.get s.buf (s.cur.toNat / 8) ≠ none ∧
      ∃ t, exec .read1 s = .next t) ∨
    (s.cur.toNat < 8 * s.inLen ∧ Memory.get s.buf (s.cur.toNat / 8) = none ∧
      exec .read1 s = .refused .bufferUnreadable) ∨
    (8 * s.inLen ≤ s.cur.toNat ∧ exec .read1 s = .fault .readPastEnd) := by
  have hx : exec .read1 s = andThen (read1 s) fun p => .next (returning (.bit p.1) p.2) := rfl
  rw [hx]
  by_cases hc : s.cur.toNat < 8 * s.inLen
  · have hl : s.cur.toNat / 8 < s.inLen := by omega
    cases hb : Memory.get s.buf (s.cur.toNat / 8) with
    | none => exact .inr (.inl ⟨hc, rfl, by rw [read1_unreadable hl hb, andThen_refused]⟩)
    | some b =>
      exact .inl ⟨hc, Option.some_ne_none b, _, by rw [read1_of_memRead (memRead_next hl hb), andThen_next]⟩
  · have hc : 8 * s.inLen ≤ s.cur.toNat := Nat.le_of_not_lt hc
    exact .inr (.inr ⟨hc, by rw [read1_pastEnd hc, andThen_fault]⟩)

theorem execRead1_fault_iff (s : State) :
    exec .read1 s = .fault .readPastEnd ↔ 8 * s.inLen ≤ s.cur.toNat := by
  rcases execRead1_cases s with ⟨hc, -, t, hx⟩ | ⟨hc, -, hx⟩ | ⟨hc, hx⟩
  all_goals simp [hx, hc]

theorem execRead1_refused_iff (s : State) :
    exec .read1 s = .refused .bufferUnreadable ↔
      s.cur.toNat < 8 * s.inLen ∧ Memory.get s.buf (s.cur.toNat / 8) = none := by
  rcases execRead1_cases s with ⟨hc, hb, t, hx⟩ | ⟨hc, hb, hx⟩ | ⟨hc, hx⟩
  · simp [hx, hb]
  · simp [hx, hc, hb]
  · simp [hx, hc]

/-- DECODE is refused or completes; it never faults (60_exceptions.md R181). -/
theorem decode_ne_fault (s : State) (r : Fault) : exec .decode s ≠ .fault r := by
  have hx : exec .decode s = onStart (runSteps sequenceSteps) s := rfl
  by_cases hp : s.phase = .busy
  · rw [hx, onStart_busy hp]
    nofun
  by_cases hl : s.inLen < 12
  · rw [decode_short hp hl]
    nofun
  by_cases hh : s.headerHeld
  · by_cases hz : zoneOf s.byte = 0
    · rw [decode_ok hp (Nat.le_of_not_lt hl) hh hz]
      nofun
    · rw [decode_malformed hp (Nat.le_of_not_lt hl) hh hz]
      nofun
  · rw [hx, onStart_missing hp (not_or.mpr ⟨hl, hh⟩)]
    nofun

/-- Settles O19: READ1 stops with a fault in one of its three cases only, and DECODE never does. -/
theorem read1FaultsPastEnd : Obligations.Read1FaultsPastEnd :=
  ⟨execRead1_fault_iff, fun s => decode_ne_fault s .readPastEnd⟩

/-- Settles O18: the bit under the cursor exists, its byte is supplied, and the cursor has room to move. -/
theorem read1Reads : Obligations.Read1Reads := by
  intro s ⟨hroom, hlen, hheld⟩
  have hr := read1_eq (s := s) (by omega) (by omega) (hheld _ (le_refl _) (by omega))
  show execRead1 s = _
  rw [execRead1, hr, andThen_next]
  rfl

/-! ### READN -/

theorem toNat_ofNat_wbits (b : Nat → Byte) (c n : Nat) :
    (BitVec.ofNat n (wbits b c n)).toNat = wbits b c n := by
  rw [BitVec.toNat_ofNat, Nat.mod_eq_of_lt (wbits_lt b c n)]

theorem readNAlone_eq {n : Nat} {s : State} (hn : n ≤ 16) (h : s.canRead n) :
    readNAlone n s =
      .next { s.afterRead n with ret := some (.value n (wbits s.byte s.cur.toNat n)) } := by
  rw [readNAlone, readN_eq hn h, andThen_next, toNat_ofNat_wbits]
  rfl

/-- Settles O21: each of the four rows is READN of its width run alone. -/
theorem readnReads : Obligations.ReadnReads := fun _ =>
  ⟨readNAlone_eq (by decide), readNAlone_eq (by decide), readNAlone_eq (by decide),
    readNAlone_eq (by decide)⟩

/-- A field is the sum of its bits, each with the weight of its place (40_cursor_primitives.md R103). -/
theorem wbits_eq_sum (b : Nat → Byte) (c n : Nat) :
    wbits b c n = ∑ i ∈ Finset.range n, (wbit (b ((c + i) / 8)) (c + i)).toNat * 2 ^ (n - 1 - i) := by
  induction n generalizing c with
  | zero => rfl
  | succ n ih =>
    have hshift : ∀ i, c + (i + 1) = c + 1 + i ∧ n + 1 - 1 - (i + 1) = n - 1 - i := by omega
    rw [wbits_head, ih, Finset.sum_range_succ', Nat.add_comm]
    refine congrArg₂ (· + ·) (Finset.sum_congr rfl fun i _ => ?_) rfl
    rw [(hshift i).1, (hshift i).2]

theorem mem_noteRead {a x : Nat} {trace : List Nat} : a ∈ noteRead x trace ↔ a = x ∨ a ∈ trace := by
  unfold noteRead
  split
  next h =>
    have hx : x ∈ trace := List.mem_of_head? h
    exact ⟨.inr, fun ha => ha.elim (· ▸ hx) id⟩
  next => exact List.mem_cons

/-- A read of at least one bit adds to the trace the bytes its bits lie in and no others. -/
theorem mem_noteReads {a c n : Nat} {trace : List Nat} :
    a ∈ noteReads c (n + 1) trace ↔ (c / 8 ≤ a ∧ a ≤ (c + n) / 8) ∨ a ∈ trace := by
  induction n generalizing c trace with
  | zero =>
    rw [noteReads, noteReads, mem_noteRead, Nat.add_zero]
    exact or_congr_left ⟨fun h => h ▸ ⟨le_refl _, le_refl _⟩, fun h => le_antisymm h.2 h.1⟩
  | succ n ih =>
    have hjoin : ((c + 1) / 8 ≤ a ∧ a ≤ (c + 1 + n) / 8) ∨ a = c / 8 ↔
        c / 8 ≤ a ∧ a ≤ (c + (n + 1)) / 8 := by omega
    rw [noteReads, ih, mem_noteRead, ← or_assoc, hjoin]

/-- Settles O22: READN in closed form gives the bits of the field, whose sum and whose bytes are known. -/
theorem readnClosedForm : Obligations.ReadnClosedForm := by
  intro n s h1 hn h
  refine ⟨_, _, readN_eq hn h, toNat_ofNat_wbits _ _ _, ?_, afterRead_cur_toNat h, fun hempty a => ?_⟩
  · rw [toNat_ofNat_wbits, wbits_eq_sum]
  · obtain ⟨m, rfl⟩ : ∃ m, n = m + 1 := ⟨n - 1, by omega⟩
    rw [afterRead_readTrace, mem_noteReads, hempty, or_iff_left List.not_mem_nil]
    rfl

/-- Where a read can be done in one, its first part can be read. -/
theorem canRead_left {s : State} {m n : Nat} (h : s.canRead (m + n)) : s.canRead m := by
  obtain ⟨hroom, hlen, hheld⟩ := h
  exact ⟨by omega, by omega, fun a h1 h2 => hheld a h1 (by omega)⟩

/-- Where a read can be done in one, its second part can be read after the first. -/
theorem canRead_afterRead {s : State} {m n : Nat} (h : s.canRead (m + n)) :
    (s.afterRead m).canRead n := by
  have hcur := afterRead_cur_toNat (canRead_left h)
  obtain ⟨hroom, hlen, hheld⟩ := h
  rw [State.canRead, hcur, afterRead_inLen, afterRead_buf]
  exact ⟨by omega, by omega, fun a h1 h2 => hheld a (by omega) (by omega)⟩

/-- Settles O23: the second read starts where the first one ended, on the same buffer. -/
theorem readsCompose : Obligations.ReadsCompose := by
  intro n₁ n₂ s hn h
  have h₁ := canRead_left h
  have h₂ := canRead_afterRead h
  have hcur := afterRead_cur_toNat h₁
  refine ⟨_, _, _, _, _, _, readN_eq (by omega) h₁, readN_eq (by omega) h₂, readN_eq hn h, ?_,
    toNat_ofNat_wbits _ _ _, ?_⟩
  · have hbyte : (s.afterRead n₁).byte = s.byte := byte_congr rfl
    rw [toNat_ofNat_wbits, toNat_ofNat_wbits, toNat_ofNat_wbits, hbyte, hcur, ← wbits_add]
  · rw [afterRead_cur, hcur, afterRead_cur, Nat.add_assoc]

/-! ### Nothing overflows -/

/-- The accumulate step on a field of fewer than 16 bits loses none of them. -/
theorem accStep_wbits_toNat (b : Nat → Byte) (c n : Nat) (x : Bool) (hn : n < 16) :
    (accStep (BitVec.ofNat 16 (wbits b c n)) x).toNat = 2 * wbits b c n + x.toNat := by
  have hfield : wbits b c n < 2 ^ 15 :=
    (wbits_lt b c n).trans_le (Nat.pow_le_pow_right (by decide) (by omega))
  have hbit := Bool.toNat_lt x
  rw [accStep_eq, BitVec.toNat_ofNat, BitVec.toNat_ofNat]
  omega

/-- The lengths a DECODE derives are those of its own buffer. -/
theorem decode_lengths {s t : State} (h : exec .decode s = .next t) :
    (∀ n, t.remLen = some n → n + 12 = s.inLen) ∧
    (∀ n, t.errBitsAvailable = some n → n = 8 * s.inLen) := by
  obtain ⟨-, ⟨-, rfl⟩ | ⟨-, -, -, rfl⟩ | ⟨hl, -, -, rfl⟩⟩ := decode_next_inv h
  · exact ⟨fun n hn => (nomatch hn), fun n hn => (Option.some.inj hn).symm⟩
  · exact ⟨fun n hn => (nomatch hn), fun n hn => (nomatch hn)⟩
  · refine ⟨fun n hn => ?_, fun n hn => (nomatch hn)⟩
    have hrem : remainderLen s.inLen = n := Option.some.inj hn
    rw [remainderLen_long hl] at hrem
    omega

/-- In the runs within the contract the cursor stays within the header (10_state.md R29). -/
theorem Inv.cur_le {s : State} (h : Inv s) : s.cur.toNat ≤ 96 := by
  have hs := h.shape
  split at hs
  · obtain ⟨-, -, -, -, -, hc, -⟩ := hs
    simp [hc]
  · obtain ⟨-, -, -, -, -, -, hstep, -⟩ := hs
    obtain ⟨i, hi⟩ := Option.isSome_iff_exists.mp hstep
    exact (Nat.le_add_right _ _).trans (stepAt_width _ i hi).1
  · unfold State.resultShape at hs
    split at hs
    · exact hs.elim
    all_goals
      obtain ⟨-, -, -, -, -, hc, -⟩ := hs
      simp [hc]

/-- The sequence runs an instruction in BUSY only: CHK.LEN first, then the step its cursor names. -/
theorem sequencer_instr_inv {s : State} {i : Instr} (h : sequencer s = .instr i) :
    s.phase = .busy ∧ (s.lenOk = false ∧ i = .chkLen ∨ s.lenOk = true ∧ stepAt s.cur = some i) := by
  unfold sequencer at h
  split at h
  · cases h
  · cases h
  next hb =>
    cases hk : s.lenOk with
    | false =>
      rw [hk] at h
      cases h
      exact ⟨hb, .inl ⟨rfl, rfl⟩⟩
    | true =>
      rw [hk, if_pos rfl] at h
      split at h <;> cases h
      next hi => exact ⟨hb, .inr ⟨rfl, hi⟩⟩

theorem checkLength_cur {s t : State} (h : checkLength s = .next t) : t.cur = s.cur := by
  by_cases hl : s.inLen < 12
  · rw [checkLength_short hl] at h
    cases h
    rfl
  · rw [checkLength_long (Nat.le_of_not_lt hl)] at h
    cases h
    rfl

theorem stepWidth_le (i : Instr) : stepWidth i ≤ 16 := by
  unfold stepWidth
  split <;> decide

/-- A step of the sequence adds its width to the cursor, which stays within the header. -/
theorem Inv.sequencer_cur {s t : State} {i : Instr} (h : Inv s) (hq : sequencer s = .instr i)
    (hx : exec i s = .next t) :
    t.cur.toNat ≤ 96 ∧ ∃ n, n ≤ 16 ∧ t.cur.toNat = s.cur.toNat + n := by
  obtain ⟨hb, ⟨-, rfl⟩ | ⟨hk, hi⟩⟩ := sequencer_instr_inv hq
  · rw [checkLength_cur hx]
    exact ⟨h.cur_le, 0, by decide, rfl⟩
  · obtain ⟨-, -, -, -, -, hlen, -, hsup, -⟩ := h.underWay hb
    have hl : 12 ≤ s.inLen := hlen hk
    obtain ⟨u, hu, hc⟩ := exec_stepAt hi hl (hsup.resolve_left (Nat.not_lt.mpr hl))
    cases hu.symm.trans hx
    exact ⟨hc ▸ (stepAt_width _ i hi).1, stepWidth i, stepWidth_le i, hc⟩

/-- Settles O24: fields and the accumulator by their bounds, the derived lengths from the outcomes of
DECODE, the cursor by the invariant. -/
theorem nothingOverflows : Obligations.NothingOverflows := by
  refine ⟨wbits_lt, accStep_wbits_toNat, fun w s t _ hlen h => ?_,
    fun s h => ⟨h.cur_le, fun i t => h.sequencer_cur⟩⟩
  obtain ⟨hrem, hbits⟩ := decode_lengths h
  refine ⟨fun n hn => ⟨?_, hrem n hn⟩, fun n hn => ⟨?_, hbits n hn⟩⟩
  · have := hrem n hn
    omega
  · have := hbits n hn
    rw [Nat.pow_add]
    omega

/-! ### Where a read stops -/

/-- The rows that begin with a READN, by its width (40_cursor_primitives.md R102, 41_field_extraction.md
R127). -/
def readRows : List (Nat × List Instr) :=
  [(1, [.readn1, .rdQr, .rdAa, .rdTc, .rdRd, .rdRa]), (3, [.readn3, .rdZ]),
    (4, [.readn4, .rdOpcode, .rdRcode]),
    (16, [.readn16, .rdId, .rdQdcount, .rdAncount, .rdNscount, .rdArcount])]

/-- The instruction is a READN of `n` bits and what is done with its value. -/
def BeginsWithReadN (n : Nat) (i : Instr) : Prop :=
  ∃ f : BitVec n × State → Out State, ∀ s, exec i s = andThen (readN n s) f

theorem readRows_begin : ∀ p ∈ readRows, 0 < p.1 ∧ ∀ i ∈ p.2, BeginsWithReadN p.1 i := by
  intro p hp
  fin_cases hp
  all_goals
    refine ⟨by decide, fun i hi => ?_⟩
    fin_cases hi
    all_goals exact ⟨_, fun _ => rfl⟩

/-- Settles O26: a row stops where the READN it begins with stops. -/
theorem readsStop : Obligations.ReadsStop := by
  refine ⟨execRead1_refused_iff, fun s n is hrow => ?_⟩
  obtain ⟨hn, hbegin⟩ := readRows_begin (n, is) hrow
  refine ⟨fun a hfrom hto hl ha hmissing i hi => ?_, fun hl hpast hheld i hi => ?_⟩
  · obtain ⟨f, hf⟩ := hbegin i hi
    rw [hf, readN_unreadable hfrom hto hl ha hn hmissing, andThen_refused]
  · obtain ⟨f, hf⟩ := hbegin i hi
    rw [hf, readN_pastEnd hl hn hpast hheld, andThen_fault]

/-! ### What the primitives and functions leave, and who returns a value -/

/-- The cursor primitives (40_cursor_primitives.md). -/
def primitiveRows : List Instr := [.read1, .readn1, .readn3, .readn4, .readn16]

/-- The code mappings (41_field_extraction.md R124, R125). -/
def mapRows : List Instr :=
  [.mapOpcode0, .mapOpcode1, .mapOpcode2, .mapOpcode3, .mapOpcode4, .mapOpcode5, .mapOpcode6,
    .mapOpcode7, .mapOpcode8, .mapOpcode9, .mapOpcode10, .mapOpcode11, .mapOpcode12, .mapOpcode13,
    .mapOpcode14, .mapOpcode15, .mapRcode0, .mapRcode1, .mapRcode2, .mapRcode3, .mapRcode4,
    .mapRcode5, .mapRcode6, .mapRcode7, .mapRcode8, .mapRcode9, .mapRcode10, .mapRcode11,
    .mapRcode12, .mapRcode13, .mapRcode14, .mapRcode15]

/-- Only what a primitive may write has changed. -/
def State.primitiveFrame (s t : State) : Prop :=
  t = { s with ret := t.ret, cur := t.cur, acc := t.acc, readTrace := t.readTrace }

theorem execRead1_frame {s t : State} (h : exec .read1 s = .next t) : s.primitiveFrame t := by
  obtain ⟨⟨b, u⟩, hu, h⟩ := andThen_eq_next h
  cases h
  obtain ⟨-, -, -, rfl⟩ := read1_next_inv hu
  rfl

theorem readNAlone_frame {n : Nat} {s t : State} (h : readNAlone n s = .next t) :
    s.primitiveFrame t := by
  obtain ⟨⟨v, u⟩, hu, h⟩ := andThen_eq_next h
  cases h
  rw [readN_frame hu]
  rfl

theorem primitiveRows_frame {i : Instr} {s t : State} (hi : i ∈ primitiveRows)
    (h : exec i s = .next t) : s.primitiveFrame t := by
  simp only [primitiveRows, List.mem_cons, List.not_mem_nil, or_false] at hi
  rcases hi with rfl | rfl | rfl | rfl | rfl
  · exact execRead1_frame h
  iterate 4
    · exact readNAlone_frame h

/-- A code mapping only returns a value. -/
theorem mapRows_return : ∀ i ∈ mapRows, ∃ v, ∀ s, exec i s = .next (returning v s) := by
  intro i hi
  fin_cases hi
  all_goals exact ⟨_, fun _ => rfl⟩

/-- Where `f` answers next, it has left what an earlier primitive or function returned. -/
def KeepsRet (f : State → Out State) : Prop := ∀ s t, f s = .next t → t.ret = s.ret

theorem readN_ret {n : Nat} {v : BitVec n} {s t : State} (h : readN n s = .next (v, t)) :
    t.ret = s.ret := by
  rw [readN_frame h]

theorem keepsRet_next {g : State → State} (hg : ∀ s : State, (g s).ret = s.ret) :
    KeepsRet fun s => .next (g s) := by
  intro s t h
  cases h
  exact hg s

/-- A READN and what is done with its value. -/
theorem keepsRet_readN {n : Nat} {f : BitVec n × State → Out State}
    (hf : ∀ v, KeepsRet fun u => f (v, u)) : KeepsRet fun s => andThen (readN n s) f := by
  intro s t h
  obtain ⟨⟨v, u⟩, hu, h⟩ := andThen_eq_next h
  exact (hf v u t h).trans (readN_ret hu)

theorem keepsRet_extractZ : KeepsRet extractZ := by
  refine keepsRet_readN fun p => ?_
  by_cases h0 : p = 0
  · simp only [h0, if_true]
    exact keepsRet_next fun _ => rfl
  · simp only [h0, if_false]
    exact keepsRet_next fun _ => rfl

/-- A choice by the length, with the failure on the short side (60_exceptions.md R177). -/
theorem keepsRet_lengthFirst {g : State → State} (hg : ∀ s : State, (g s).ret = s.ret) :
    KeepsRet fun s =>
      if s.inLen < Config.hdrBytes then .next (raiseTruncated s.inLen s) else .next (g s) := by
  intro s t h
  dsimp only at h
  split at h <;> cases h
  · rfl
  · exact hg s

theorem keepsRet_onStart {f : State → Out State} (hf : KeepsRet f) : KeepsRet (onStart f) := by
  intro s t h
  obtain ⟨-, -, h⟩ := onStart_inv h
  exact hf (beginTransaction s) t h

theorem keepsRet_decode : KeepsRet (exec .decode) := by
  intro s t h
  obtain ⟨-, ⟨-, rfl⟩ | ⟨-, -, -, rfl⟩ | ⟨-, -, -, rfl⟩⟩ := decode_next_inv h
  · rfl
  · rfl
  · rfl

/-- Only the primitives, the code mappings and ENCODE return anything. -/
theorem keepsRet_exec {i : Instr} (hi : i ∉ primitiveRows ++ mapRows) (he : ∀ h, i ≠ .encode h) :
    KeepsRet (exec i) := by
  cases i
  case encode h => exact absurd rfl (he h)
  case decode => exact keepsRet_decode
  case decodeOk h => exact keepsRet_onStart (keepsRet_lengthFirst fun _ => rfl)
  case decodeMalformed1 | decodeMalformed2 | decodeMalformed3 | decodeMalformed4 | decodeMalformed5 |
      decodeMalformed6 | decodeMalformed7 =>
    exact keepsRet_onStart (keepsRet_lengthFirst fun _ => rfl)
  case decodeTruncatedL0 | decodeTruncatedL1 | decodeTruncatedL2 | decodeTruncatedL3 |
      decodeTruncatedL4 | decodeTruncatedL5 | decodeTruncatedL6 | decodeTruncatedL7 |
      decodeTruncatedL8 | decodeTruncatedL9 | decodeTruncatedL10 | decodeTruncatedL11 | start =>
    exact keepsRet_onStart (keepsRet_next fun _ => rfl)
  case chkLen => exact keepsRet_lengthFirst fun _ => rfl
  case rdZ => exact keepsRet_extractZ
  case rdId | rdQr | rdOpcode | rdAa | rdTc | rdRd | rdRa | rdRcode | rdQdcount | rdAncount |
      rdNscount | rdArcount =>
    exact keepsRet_readN fun _ => keepsRet_next fun _ => rfl
  case assemble => exact keepsRet_next fun _ => rfl
  all_goals exact absurd (by decide) hi

/-- Settles O54: READ1 and READN by their frames, a mapping by the value it returns, and every other
instruction by what it keeps. -/
theorem primitivesAndFunctionsFrame : Obligations.PrimitivesAndFunctionsFrame := by
  intro i s t h
  refine ⟨fun hi => primitiveRows_frame hi h, fun hi => ?_, fun hi he => keepsRet_exec hi he s t h⟩
  obtain ⟨v, hv⟩ := mapRows_return i hi
  cases (hv s).symm.trans h
  rfl

end Sys2Proof.Machine

/-! ## The field extraction (41_field_extraction.md): the steps RD.* (R110 to R123) and the two code mappings
(R124, R125) -/

namespace Sys2Proof.Machine

/-! ### A read at a step's "cursor in" (41_field_extraction.md R127) -/

theorem afterRead_cur_at {s : State} {c : BitVec 7} (hc : s.cur = c) (n : Nat) :
    (s.afterRead n).cur = BitVec.ofNat 7 (c.toNat + n) := by
  rw [afterRead_cur, hc]

/-- At the first bit of byte `a`, the 16 bits at the cursor are bytes `a` and `a + 1`. -/
theorem wbits_half_at {s : State} {c : BitVec 7} (hc : s.cur = c) (a : Nat) (ha : c.toNat = 8 * a) :
    BitVec.ofNat 16 (wbits s.byte s.cur.toNat 16) = s.byte a ++ s.byte (a + 1) := by
  rw [hc, ha, wbits_half]
  rfl

/-- The bit at the cursor, by its byte and its place in that byte. -/
theorem wbit_at {s : State} {c : BitVec 7} (hc : s.cur = c) :
    wbit (s.byte (s.cur.toNat / 8)) s.cur.toNat =
      (s.byte (c.toNat / 8)).getLsbD (7 - c.toNat % 8) := by
  rw [hc]
  rfl

/-! ### The steps of 16 bits, of one bit and of four -/

/-- Settles O27: each step is READN of 16 bits into its register, and its "cursor in" is the first bit of
its two bytes. -/
theorem halfSteps : Obligations.HalfSteps := by
  intro s h
  refine ⟨extractId_eq h, extractQdcount_eq h, extractAncount_eq h, extractNscount_eq h,
    extractArcount_eq h, fun hc => ?_, fun hc => ?_, fun hc => ?_, fun hc => ?_, fun hc => ?_⟩
  · exact ⟨_, extractId_eq h, afterRead_cur_at hc 16, congrArg some (wbits_half_at hc 0 rfl)⟩
  · exact ⟨_, extractQdcount_eq h, afterRead_cur_at hc 16, congrArg some (wbits_half_at hc 4 rfl)⟩
  · exact ⟨_, extractAncount_eq h, afterRead_cur_at hc 16, congrArg some (wbits_half_at hc 6 rfl)⟩
  · exact ⟨_, extractNscount_eq h, afterRead_cur_at hc 16, congrArg some (wbits_half_at hc 8 rfl)⟩
  · exact ⟨_, extractArcount_eq h, afterRead_cur_at hc 16, congrArg some (wbits_half_at hc 10 rfl)⟩

/-- Settles O28: each step is READN of one bit into its register. -/
theorem flagSteps : Obligations.FlagSteps := by
  intro s h
  refine ⟨extractQr_eq h, extractAa_eq h, extractTc_eq h, extractRd_eq h, extractRa_eq h,
    fun hc => ?_, fun hc => ?_, fun hc => ?_, fun hc => ?_, fun hc => ?_⟩
  · exact ⟨_, extractQr_eq h, afterRead_cur_at hc 1, congrArg some (wbit_at hc)⟩
  · exact ⟨_, extractAa_eq h, afterRead_cur_at hc 1, congrArg some (wbit_at hc)⟩
  · exact ⟨_, extractTc_eq h, afterRead_cur_at hc 1, congrArg some (wbit_at hc)⟩
  · exact ⟨_, extractRd_eq h, afterRead_cur_at hc 1, congrArg some (wbit_at hc)⟩
  · exact ⟨_, extractRa_eq h, afterRead_cur_at hc 1, congrArg some (wbit_at hc)⟩

/-- The tag of a raw opcode, as a table of its values (10_state.md R25). -/
theorem mapOpcode_tag : ∀ raw : BitVec 4, (mapOpcode raw).tag =
    if raw = 0 then .query else if raw = 1 then .inverseQuery
    else if raw = 2 then .status else .reserved := by decide

/-- The tag of a raw rcode, as a table of its values (10_state.md R26). -/
theorem mapRcode_tag : ∀ raw : BitVec 4, (mapRcode raw).tag =
    if raw = 0 then .noError else if raw = 1 then .formatError
    else if raw = 2 then .serverFailure else if raw = 3 then .nameError
    else if raw = 4 then .notImplemented else if raw = 5 then .refused else .reserved := by decide

/-- Settles O29: each step is READN of four bits, and the tag is that of the value read. -/
theorem codeSteps : Obligations.CodeSteps := by
  intro s h
  refine ⟨⟨_, rfl, ?_, ?_⟩, fun hc => ?_, fun hc => ?_⟩
  · rw [← mapOpcode_tag]
    exact extractOpcode_eq h
  · rw [← mapRcode_tag]
    exact extractRcode_eq h
  · refine ⟨_, extractOpcode_eq h, afterRead_cur_at hc 4, ?_⟩
    rw [hc]
    exact congrArg some (wbits_opcodeRaw s.byte)
  · refine ⟨_, extractRcode_eq h, afterRead_cur_at hc 4, ?_⟩
    rw [hc]
    exact congrArg some (wbits_rcodeRaw s.byte)

/-! ### The reserved zone -/

theorem extractZ_zero {s : State} (h : s.canRead 3) (hz : wbits s.byte s.cur.toNat 3 = 0) :
    extractZ s = .next { s.afterRead 3 with z := some 0 } := by
  rw [extractZ_eq h, hz]
  rfl

theorem extractZ_nonzero {s : State} {p : BitVec 3} (h : s.canRead 3)
    (hp : p.toNat = wbits s.byte s.cur.toNat 3) (h0 : p ≠ 0) :
    extractZ s = .next (raiseMalformed p { s.afterRead 3 with z := some p }) := by
  rw [extractZ_eq h, ← hp, BitVec.ofNat_toNat, BitVec.setWidth_eq, if_neg h0]

/-- RD.Z moves the cursor past all three bits, whichever way its test goes (41_field_extraction.md
R117). -/
theorem extractZ_cur {s : State} (h : s.canRead 3) :
    ∃ t, extractZ s = .next t ∧ t.cur = (s.afterRead 3).cur := by
  rw [extractZ_eq h]
  split
  · exact ⟨_, rfl, rfl⟩
  · exact ⟨_, rfl, raiseMalformed_cur _ _⟩

/-- Settles O30, by the two outcomes of the test. -/
theorem zoneStep : Obligations.ZoneStep := by
  intro s h
  refine ⟨extractZ_zero h, fun _ hp h0 => extractZ_nonzero h hp h0, fun hc => ⟨?_, ?_⟩⟩
  · rw [hc]
    exact wbits_slice s.byte 3 1 3 4 rfl
  · obtain ⟨t, ht, hcur⟩ := extractZ_cur h
    exact ⟨t, ht, hcur.trans (afterRead_cur_at hc 3)⟩

/-! ### The code mappings -/

theorem mapOpcode_injective : Function.Injective mapOpcode :=
  Function.LeftInverse.injective unmap_mapOpcode

theorem mapRcode_tag_code : ∀ raw : BitVec 4, raw.toNat < 6 →
    (mapRcode raw).tag.code.toNat = raw.toNat := by decide

/-- Settles O14: the named values one by one, the reserved ones together. -/
theorem codeMappings : Obligations.CodeMappings := by
  refine ⟨rfl, rfl, rfl, mapOpcode_reserved, rfl, rfl, rfl, fun raw h => ?_, mapOpcode_injective,
    rfl, rfl, rfl, rfl, rfl, rfl, mapRcode_reserved, mapRcode_tag_code, fun raw h => ?_⟩
  · rw [mapOpcode_reserved raw h]
    rfl
  · rw [mapRcode_reserved raw h]
    rfl

/-- Row `MAP.OPCODE.<raw>` returns the variant of `raw`. -/
theorem exec_mapOpcodeRow (s : State) (raw : BitVec 4) :
    exec (mapOpcodeRow raw) s = .next { s with ret := some (.opcode (mapOpcode raw)) } := by
  fin_cases raw
  all_goals rfl

/-- Row `MAP.RCODE.<raw>` returns the variant of `raw`. -/
theorem exec_mapRcodeRow (s : State) (raw : BitVec 4) :
    exec (mapRcodeRow raw) s = .next { s with ret := some (.rcode (mapRcode raw)) } := by
  fin_cases raw
  all_goals rfl

/-- Settles O36: each row is the mapping of its own raw value. -/
theorem mapRows_exec : Obligations.MapRows := fun s =>
  have op := exec_mapOpcodeRow s
  have rc := exec_mapRcodeRow s
  ⟨op 0, op 1, op 2, op 3, op 4, op 5, op 6, op 7, op 8, op 9, op 10, op 11, op 12, op 13, op 14, op 15,
    rc 0, rc 1, rc 2, rc 3, rc 4, rc 5, rc 6, rc 7, rc 8, rc 9, rc 10, rc 11, rc 12, rc 13, rc 14, rc 15⟩

end Sys2Proof.Machine

/-! ## The transaction (42_decode_transaction.md): the hard-wired sequence (R142), START and its refusals (R140,
R147), the length check (R141), the closed form (R149, R150, R153), the step machine (R144, R148, R151), and
the invariant of runs within the contract -/

namespace Sys2Proof.Machine

/-! ### A step, by whose turn it is -/

theorem step_decoderTurn {s : State} (h : s.turn = .decoder) : step s = decoderTurn s := by
  rw [step, h]

/-- `start` is a move of the host like the others (42_decode_transaction.md R140). -/
theorem step_hostMove {s : State} {m : HostMove} (h : s.turn = .host m) :
    step s = hostMove m s.pop := by
  rw [step, h]
  cases m <;> rfl

theorem step_runRow {s : State} {sel : Sel} (h : s.turn = .run sel) : step s = runRow sel s := by
  rw [step, h]

theorem turn_of_cons {s : State} {a : Turn} {rest : List Turn} (h : s.agenda = a :: rest) :
    s.turn = a := by
  rw [State.turn, h, List.headD_cons]

theorem turn_of_nil {s : State} (h : s.agenda = []) : s.turn = .decoder := by
  rw [State.turn, h, List.headD_nil]

theorem pop_of_cons {s : State} {a : Turn} {rest : List Turn} (h : s.agenda = a :: rest) :
    s.pop = { s with agenda := rest, freeCount := s.freeCount + 1 } := by
  rw [State.pop, h, List.tail_cons]

theorem pop_of_nil {s : State} (h : s.agenda = []) :
    s.pop = { s with freeCount := s.freeCount + 1 } := by
  rw [State.pop, h, List.tail_nil, ← h]

theorem sequencer_idle {s : State} (h : s.phase ≠ .busy) : sequencer s = .idle := by
  unfold sequencer
  cases hp : s.phase with
  | busy => exact absurd hp h
  | idle => rfl
  | done => rfl

/-- Outside BUSY the decoder's turn only takes itself off the agenda (42_decode_transaction.md R148). -/
theorem step_idle {s : State} (ht : s.turn = .decoder) (h : s.phase ≠ .busy) : step s = .next s.pop := by
  rw [step_decoderTurn ht, decoderTurn, sequencer_idle h]

/-- Settles O4: by the turn at the head of the agenda, and what taking it off leaves. -/
theorem stepRunsInstruction : Obligations.StepRunsInstruction := by
  intro s i rest
  refine ⟨fun sel bytes ha hf hd => ?_, fun ha hq => ?_, fun ha hq => ?_, fun ha => ?_, fun hp ha => ?_,
    fun hp ha => ?_⟩
  · rw [step_run ha hf hd, pop_of_cons ha]
  · rw [step_decoder (turn_of_cons ha) hq, pop_of_cons ha]
  · rw [step_decoder (turn_of_nil ha) hq, pop_of_nil ha]
  · rw [step_hostMove (turn_of_cons ha), pop_of_cons ha]
    rfl
  · rw [step_idle (turn_of_cons ha) hp, pop_of_cons ha]
  · rw [step_idle (turn_of_nil ha) hp, pop_of_nil ha]

/-- Settles O6: before the length check CHK.LEN, after it the step the cursor names. -/
theorem sequenceOrder : Obligations.SequenceOrder := by
  intro s hb
  refine ⟨sequencer_chkLen hb, fun hk => ?_⟩
  have named {c : BitVec 7} {i : Instr} (hi : stepAt c = some i) (hc : s.cur = c) :
      sequencer s = .instr i := sequencer_stepAt hb hk (hc ▸ hi)
  exact ⟨named rfl, named rfl, named rfl, named rfl, named rfl, named rfl, named rfl, named rfl, named rfl,
    named rfl, named rfl, named rfl, named rfl, named rfl⟩

/-! ### START, the length check, ASSEMBLE -/

/-- Settles O32: the guard of START is the buffer it needs. -/
theorem startBegins : Obligations.StartBegins := fun _ hp => ⟨onStart_eq hp, onStart_missing hp⟩

/-- The rows without operand that begin a transaction. -/
def startingRows : List Instr := .start :: transactionRows

/-- The instruction is a START and what the transaction does from there. -/
def BeginsWithStart (i : Instr) : Prop := ∃ f : State → Out State, ∀ s, exec i s = onStart f s

theorem startingRows_begin : ∀ i ∈ startingRows, BeginsWithStart i := by
  intro i hi
  fin_cases hi
  all_goals exact ⟨_, fun _ => rfl⟩

theorem decodeOk_begins (h : Header) : BeginsWithStart (.decodeOk h) := ⟨_, fun _ => rfl⟩

theorem BeginsWithStart.busy {i : Instr} {s : State} (hi : BeginsWithStart i) (hb : s.phase = .busy) :
    exec i s = .refused .startWhileBusy := by
  obtain ⟨f, hf⟩ := hi
  rw [hf, onStart_busy hb]

theorem BeginsWithStart.missing {i : Instr} {s : State} (hi : BeginsWithStart i) (hp : s.phase ≠ .busy)
    (hs : ¬ s.supplied) : exec i s = .refused .bufferUnreadable := by
  obtain ⟨f, hf⟩ := hi
  rw [hf, onStart_missing hp hs]

/-- Settles O33: each of these rows is a START first. -/
theorem startInBusyRefused : Obligations.StartInBusyRefused := fun _ hb =>
  ⟨fun i hi => (startingRows_begin i hi).busy hb, fun h => (decodeOk_begins h).busy hb⟩

/-- Settles O34, by the length. -/
theorem lengthCheck : Obligations.LengthCheck := fun _ => ⟨checkLength_short, checkLength_long⟩

/-- Settles O35: from 12 bytes on the remainder is a difference. -/
theorem assemblePresents : Obligations.AssemblePresents := by
  intro s hl
  rw [← remainderLen_long hl]
  rfl

/-! ### The three results (42_decode_transaction.md R149) -/

section
variable (s : State)

theorem raiseTruncated_result (n : Nat) : (raiseTruncated n (beginTransaction s)).resultTruncated n := by
  simp [State.resultTruncated, State.noHeader, State.noRemainder, State.noMalformed, State.noInternal]

theorem finishMalformed_result (z : BitVec 3) :
    (finishMalformed z (beginTransaction s)).resultMalformed z := by
  simp [finishMalformed, State.resultMalformed, State.noHeader, State.noRemainder, State.noTruncated,
    State.noInternal]

theorem finishOk_result {h : Header} (hw : h.wf = true) :
    (finishOk h (beginTransaction s)).resultOk h (remainderLen s.inLen) := by
  obtain ⟨ho, hr⟩ := Bool.and_eq_true_iff.mp hw
  simp [finishOk, State.resultOk, State.holdsHeader, State.noTruncated, State.noMalformed,
    State.noInternal, map_unmapOpcode ho, map_unmapRcode hr]

end

theorem mapOpcode_wf : ∀ raw : BitVec 4, (mapOpcode raw).wf = true := by decide

theorem mapRcode_wf : ∀ raw : BitVec 4, (mapRcode raw).wf = true := by decide

/-- The decoder's headers are well-formed (43_reference_encoder.md R163). -/
theorem headerOf_wf (b : Nat → Byte) : (headerOf b).wf = true :=
  Bool.and_eq_true_iff.mpr ⟨mapOpcode_wf _, mapRcode_wf _⟩

theorem not_supplied {s : State} (hl : 12 ≤ s.inLen) (hh : ¬ s.headerHeld) : ¬ s.supplied :=
  not_or.mpr ⟨Nat.not_lt.mpr hl, hh⟩

section
variable {s : State} (hp : s.phase ≠ .busy)
include hp

theorem decode_short_result (hl : s.inLen < 12) :
    ∃ t, exec .decode s = .next t ∧ t.resultTruncated s.inLen :=
  ⟨_, decode_short hp hl, raiseTruncated_result s _⟩

theorem decode_malformed_result (hl : 12 ≤ s.inLen) (hh : s.headerHeld) (hz : zoneOf s.byte ≠ 0) :
    ∃ t, exec .decode s = .next t ∧ t.resultMalformed (zoneOf s.byte) :=
  ⟨_, decode_malformed hp hl hh hz, finishMalformed_result s _⟩

theorem decode_ok_result (hl : 12 ≤ s.inLen) (hh : s.headerHeld) (hz : zoneOf s.byte = 0) :
    ∃ t, exec .decode s = .next t ∧ t.resultOk (headerOf s.byte) (s.inLen - 12) := by
  refine ⟨_, decode_ok hp hl hh hz, ?_⟩
  rw [← remainderLen_long hl]
  exact finishOk_result s (headerOf_wf _)

end

/-- Settles O38, by the closed form of each outcome. -/
theorem decodeClosedForm : Obligations.DecodeClosedForm := fun _ hp =>
  ⟨decode_short_result hp, decode_malformed_result hp, decode_ok_result hp,
    fun hl hh => (startingRows_begin .decode (by decide)).missing hp (not_supplied hl hh)⟩

/-- Settles O42: the row completes as its header says, or as the length check or START does. -/
theorem outcomeOkRow : Obligations.OutcomeOkRow := by
  intro h s hw hp
  refine ⟨fun hl hh => ⟨_, outcomeOk_long hp hl hh, ?_⟩,
    fun hl => ⟨_, outcomeOk_short hp hl, raiseTruncated_result s _⟩,
    fun hl hh => (decodeOk_begins h).missing hp (not_supplied hl hh)⟩
  rw [← remainderLen_long hl]
  exact finishOk_result s hw

theorem exec_truncatedRow {n : Nat} (hn : n < 12) (s : State) :
    exec (truncatedRow n) s = outcomeTruncated n s := by
  interval_cases n
  all_goals rfl

theorem exec_zoneRow_zero (h : Header) (s : State) : exec (zoneRow 0 h) s = outcomeOk h s := rfl

theorem exec_zoneRow {z : BitVec 3} (hz : z ≠ 0) (h : Header) (s : State) :
    exec (zoneRow z h) s = outcomeMalformed z s := by
  rcases zone_cases z with rfl | rfl | rfl | rfl | rfl | rfl | rfl | rfl
  · exact absurd rfl hz
  all_goals rfl

/-- Settles O44: row `L` completes with `L` as the length, on a buffer START accepts. -/
theorem outcomeTruncatedRows : Obligations.OutcomeTruncatedRows := by
  intro s hp
  refine ⟨fun hs => ?_, fun hs i hi => (startingRows_begin i ?_).missing hp hs⟩
  · have row (n : Nat) (hn : n < 12) : ∃ t, exec (truncatedRow n) s = .next t ∧ t.resultTruncated n :=
      ⟨_, (exec_truncatedRow hn s).trans (outcomeTruncated_eq hp hs), raiseTruncated_result s n⟩
    exact ⟨row 0 (by decide), row 1 (by decide), row 2 (by decide), row 3 (by decide), row 4 (by decide),
      row 5 (by decide), row 6 (by decide), row 7 (by decide), row 8 (by decide), row 9 (by decide),
      row 10 (by decide), row 11 (by decide)⟩
  · revert i
    decide

/-! ### An outcome row on the buffer it is found in (42_decode_transaction.md R150, R151) -/

theorem readBytes_held {s : State} {n a : Nat} {l : List Byte} (h : readBytes s a n = .next l) :
    ∀ x, a ≤ x → x < a + n → (Memory.get s.buf x).isSome = true := by
  induction n generalizing a l with
  | zero =>
    intro x h1 h2
    omega
  | succ n ih =>
    obtain ⟨b, hb, h⟩ := andThen_eq_next h
    obtain ⟨l', hl', -⟩ := andThen_eq_next h
    intro x h1 h2
    rcases Nat.eq_or_lt_of_le h1 with rfl | hlt
    · rcases memRead_cases a s with ⟨-, b', hg, -⟩ | ⟨-, -, e⟩ | ⟨-, e⟩
      · rw [hg, Option.isSome_some]
      · rw [e] at hb
        cases hb
      · rw [e] at hb
        cases hb
    · exact ih hl' x hlt (by omega)

/-- The outcome row of the buffer: by the length, then by the zone of a header that is held
(30_encoding.md R81). -/
def State.hasOutcomeRow (s : State) (i : Instr) : Prop :=
  s.inLen < 12 ∧ i = truncatedRow s.inLen ∨
  12 ≤ s.inLen ∧ s.headerHeld ∧ i = zoneRow (zoneOf s.byte) (headerOf s.byte)

/-- The outcome recogniser finds the outcome row of its buffer (log 29). -/
theorem hasOutcomeRow_of_found {s : State} {bytes : List Byte} {i : Instr}
    (hf : fetchBytes .outcome s = .next bytes) (hd : decode .outcome bytes = .ok i) :
    s.hasOutcomeRow i := by
  change headerBytes s = .next bytes at hf
  by_cases hl : s.inLen < 12
  · rw [headerBytes_short hl] at hf
    cases hf
    rw [decode_outcome_short (by rwa [zeroBuf_length]), zeroBuf_length] at hd
    cases hd
    exact .inl ⟨hl, rfl⟩
  · have hread : readBytes s 0 12 = .next bytes := (if_neg hl).symm.trans hf
    have hh : s.headerHeld := fun a ha => readBytes_held hread a (Nat.zero_le a) (by omega)
    have hl : 12 ≤ s.inLen := Nat.le_of_not_lt hl
    rw [headerBytes_long hl hh] at hf
    cases hf
    rw [(decode_header s.byte).1] at hd
    cases hd
    exact .inr ⟨hl, hh, rfl⟩

/-- In every phase the outcome row of the buffer does what DECODE does. -/
theorem exec_outcomeRow {s : State} {i : Instr} (h : s.hasOutcomeRow i) : exec i s = exec .decode s := by
  have hbusy : s.phase = .busy → exec .decode s = .refused .startWhileBusy :=
    (startingRows_begin .decode (by decide)).busy
  by_cases hp : s.phase = .busy
  · rw [hbusy hp]
    rcases h with ⟨hl, rfl⟩ | ⟨hl, hh, rfl⟩
    · rw [exec_truncatedRow hl, outcomeTruncated_busy hp]
    · by_cases hz : zoneOf s.byte = 0
      · rw [hz, exec_zoneRow_zero, outcomeOk_busy hp]
      · rw [exec_zoneRow hz, outcomeMalformed_busy hp]
  · rcases h with ⟨hl, rfl⟩ | ⟨hl, hh, rfl⟩
    · rw [exec_truncatedRow hl, outcomeTruncated_eq hp (.inl hl), decode_short hp hl]
    · by_cases hz : zoneOf s.byte = 0
      · rw [decode_ok hp hl hh hz, hz, exec_zoneRow_zero, outcomeOk_long hp hl hh]
      · rw [decode_malformed hp hl hh hz, exec_zoneRow hz, outcomeMalformed_long hp hl hh]

/-- Settles O41: the recogniser classifies the buffer as DECODE does. -/
theorem outcomeRowsAgree : Obligations.OutcomeRowsAgree := fun _ _ _ _ hf hd =>
  exec_outcomeRow (hasOutcomeRow_of_found hf hd)

/-! ### What the result depends on (42_decode_transaction.md R153) -/

/-- Of 12 bytes or more, the zone alone decides the status. -/
theorem decode_status {s t : State} (hl : 12 ≤ s.inLen) (h : exec .decode s = .next t) :
    t.status = if zoneOf s.byte = 0 then .ok else .malformed := by
  obtain ⟨-, ⟨hs, -⟩ | ⟨-, -, hz, rfl⟩ | ⟨-, -, hz, rfl⟩⟩ := decode_next_inv h
  · omega
  · rw [if_neg hz]
    rfl
  · rw [if_pos hz]
    rfl

/-- Settles O48, by the closed form of DECODE. -/
theorem tailIrrelevant : Obligations.TailIrrelevant := by
  intro s s' t hp hp' ht
  refine ⟨fun hl hlen => ?_, fun hl hl' hget => ?_, fun hl hl' hz t' ht' => ?_⟩
  · rw [decode_short hp hl] at ht
    cases ht
    exact ⟨_, decode_short hp' (hlen ▸ hl), hlen ▸ raiseTruncated_sameOutcome _ s s', rfl⟩
  · have hbyte : ∀ a, a < 12 → s'.byte a = s.byte a := fun a ha => byte_eq_of_get (hget a ha)
    have hzone : zoneOf s'.byte = zoneOf s.byte := by rw [zoneOf, zoneOf, hbyte 3 (by decide)]
    obtain ⟨-, ⟨hs, -⟩ | ⟨-, hh, hz, rfl⟩ | ⟨-, hh, hz, rfl⟩⟩ := decode_next_inv ht
    · omega
    · refine ⟨_, decode_malformed hp' hl' (headerHeld_congr hget hh) (hzone ▸ hz), ?_, Status.noConfusion⟩
      rw [hzone]
      exact finishMalformed_sameOutcome _ s s'
    · refine ⟨_, decode_ok hp' hl' (headerHeld_congr hget hh) (hzone ▸ hz), ?_, fun _ => ?_⟩
      · rw [headerOf_congr hbyte]
        exact finishOk_sameOutcome _ s s'
      · rw [← remainderLen_long hl, ← remainderLen_long hl']
        exact ⟨rfl, rfl⟩
  · rw [decode_status hl ht, decode_status hl' ht', hz]

/-- In BUSY there is no result. -/
theorem underWay_noResult {s : State} (hb : s.phase = .busy) (h : s.underWay) :
    s = { s with
      phase := .busy, status := .none, remOff := none, remLen := none, errBitsRequired := none
      errBitsAvailable := none, errPattern := none, errBitOffset := none } := by
  obtain ⟨hst, ⟨hro, hrl⟩, ⟨hbr, hba⟩, ⟨hep, heo⟩, -⟩ := h
  cases s
  simp_all only

/-- A transaction under way is the one START began, with the fields behind the cursor read. -/
theorem underWay_eq {s : State} (hb : s.phase = .busy) (ht : s.readTrace = traceTo s.cur.toNat)
    (h : s.underWay) :
    s = { (beginTransaction s).readTo s.cur.toNat s.acc with lenOk := s.lenOk } := by
  refine (underWay_noResult hb h).trans ?_
  obtain ⟨-, -, -, -, -, -, -, -, hid, hqr, hopr, hopt, haa, htc, hrd, hra, ⟨hz, hz', -⟩, hrcr, hrct, hqd,
    han, hns, har⟩ := h
  have hzone : s.z = if 28 ≤ s.cur.toNat then some (zoneOf s.byte) else none := by
    split
    next hc => rw [(hz hc).1, (hz hc).2]
    next hc => exact hz' (Nat.lt_of_not_le hc)
  have hcur : BitVec.ofNat 7 s.cur.toNat = s.cur := by simp
  have hbyte : (beginTransaction s).byte = s.byte := byte_congr rfl
  unfold readSoFar at *
  -- each equation of `underWay` turned round: the register read is the one `s` already holds
  simp [State.readTo, hbyte, hcur, ← hid, ← hqr, ← hopr, ← hopt,
    ← haa, ← htc, ← hrd, ← hra, ← hzone, ← hrcr, ← hrct, ← hqd, ← han, ← hns, ← har, ← ht]

/-- A transaction under way, as START and the reads behind its cursor leave it, is in the invariant. -/
theorem readTo_underWay {s : State} {c : Nat} {a : Option Half} (hl : 12 ≤ s.inLen) (hh : s.headerHeld)
    (hc : (stepAt (BitVec.ofNat 7 c)).isSome = true) (hc96 : c ≤ 96)
    (hz : 28 ≤ c → zoneOf s.byte = 0) (ha : c = 0 → a = none) :
    ((beginTransaction s).readTo c a).underWay := by
  have hcur : ((beginTransaction s).readTo c a).cur.toNat = c := readTo_cur hc96
  refine ⟨rfl, ⟨rfl, rfl⟩, ⟨rfl, rfl⟩, ⟨rfl, rfl⟩, nofun, fun _ => hl, hc, .inr hh, ?_⟩
  unfold readSoFar
  rw [hcur]
  refine ⟨rfl, rfl, rfl, rfl, rfl, rfl, rfl, rfl, ⟨fun h => ⟨?_, hz h⟩, fun h => ?_, ha⟩,
    rfl, rfl, rfl, rfl, rfl, rfl⟩
  · rw [← hz h]
    exact if_pos h
  · exact if_neg (Nat.not_le.mpr h)

/-- In BUSY, before the length check, the state is the one START left. -/
theorem underWay_begin {s : State} (hb : s.phase = .busy) (ht : s.readTrace = traceTo s.cur.toNat)
    (h : s.underWay) (hk : s.lenOk = false) : s = beginTransaction s := by
  have heq := underWay_eq hb ht h
  obtain ⟨-, -, -, -, hcur, -, -, -, -, -, -, -, -, -, -, -, ⟨-, -, hacc⟩, -⟩ := h
  have hc : s.cur.toNat = 0 := congrArg BitVec.toNat (hcur hk)
  rw [hc, hacc hc, hk] at heq
  exact heq

/-- In BUSY, after the length check, it is START's with the fields behind the cursor read. -/
theorem underWay_readTo {s : State} (hb : s.phase = .busy) (ht : s.readTrace = traceTo s.cur.toNat)
    (h : s.underWay) (hk : s.lenOk = true) : s = (beginTransaction s).readTo s.cur.toNat s.acc := by
  have heq := underWay_eq hb ht h
  rw [hk] at heq
  exact heq

theorem begin_underWay {s : State} (hs : s.supplied) : (beginTransaction s).underWay :=
  ⟨rfl, ⟨rfl, rfl⟩, ⟨rfl, rfl⟩, ⟨rfl, rfl⟩, fun _ => rfl, nofun, rfl, hs, rfl, rfl, rfl, rfl, rfl, rfl, rfl,
    rfl, ⟨fun h => absurd h (by simp), fun _ => rfl, fun _ => rfl⟩, rfl, rfl, rfl, rfl, rfl, rfl⟩

/-- Every step but the two that end the transaction takes it to the next "cursor in"
(41_field_extraction.md R127). -/
theorem takesTo_stepAt {s : State} {c : BitVec 7} {i : Instr} (hl : 12 ≤ s.inLen) (hh : s.headerHeld)
    (hi : stepAt c = some i) (ha : i ≠ .assemble) (hz : i = .rdZ → zoneOf s.byte = 0) :
    TakesTo (exec i) s c.toNat (c.toNat + stepWidth i) := by
  unfold stepAt at hi
  split at hi <;> cases hi
  next hc => rw [hc]; exact extractId_takes hl hh
  next hc => rw [hc]; exact extractQr_takes hl hh
  next hc => rw [hc]; exact extractOpcode_takes hl hh
  next hc => rw [hc]; exact extractAa_takes hl hh
  next hc => rw [hc]; exact extractTc_takes hl hh
  next hc => rw [hc]; exact extractRd_takes hl hh
  next hc => rw [hc]; exact extractRa_takes hl hh
  next hc => rw [hc]; exact extractZ_takes hl hh (hz rfl)
  next hc => rw [hc]; exact extractRcode_takes hl hh
  next hc => rw [hc]; exact extractQdcount_takes hl hh
  next hc => rw [hc]; exact extractAncount_takes hl hh
  next hc => rw [hc]; exact extractNscount_takes hl hh
  next hc => rw [hc]; exact extractArcount_takes hl hh
  · exact absurd rfl ha

/-- A step's "cursor out" is the next step's "cursor in"; only RD.Z takes the cursor past the zone, and
ASSEMBLE stands at the end (41_field_extraction.md R127). -/
theorem stepAt_next : ∀ c : BitVec 7, ∀ i ∈ stepAt c,
    (i = .assemble → c = 96) ∧ (i = .rdZ → c = 25) ∧
    (i ≠ .assemble → (stepAt (BitVec.ofNat 7 (c.toNat + stepWidth i))).isSome = true) ∧
    (28 ≤ c.toNat + stepWidth i → 28 ≤ c.toNat ∨ i = .rdZ) := by decide

/-! ### The invariant's part about the block -/

/-- The trace of reads and the registers are those of the phase (10_state.md R40, 42_decode_transaction.md
R142, R149). -/
def State.wellShaped (s : State) : Prop :=
  s.readTrace = traceTo s.cur.toNat ∧
  (s.phase = .idle ∧ s.justReset ∨ s.phase = .busy ∧ s.underWay ∨ s.phase = .done ∧ s.resultShape)

theorem inv_iff {s : State} :
    Inv s ↔ Memory.wf s.buf = true ∧ s.agenda.all Turn.inContract = true ∧ s.wellShaped := by
  constructor
  · rintro ⟨hm, hc, ht, hs⟩
    refine ⟨hm, hc, ht, ?_⟩
    split at hs
    next hp => exact .inl ⟨hp, hs⟩
    next hp => exact .inr (.inl ⟨hp, hs⟩)
    next hp => exact .inr (.inr ⟨hp, hs⟩)
  · rintro ⟨hm, hc, ht, hs⟩
    refine ⟨hm, hc, ht, ?_⟩
    rcases hs with ⟨hp, hs⟩ | ⟨hp, hs⟩ | ⟨hp, hs⟩
    all_goals
      rw [hp]
      exact hs

theorem resultShape_of_ok {s : State} {h : Header} {n : Nat} (hw : h.wf = true) (hr : s.resultOk h n) :
    s.phase = .done ∧ s.resultShape := by
  obtain ⟨hp, hs, hh, hoff, hlen, hrest⟩ := hr
  rw [State.resultShape, hs]
  exact ⟨hp, ⟨h, hw, hh⟩, hoff, ⟨n, hlen⟩, hrest⟩

theorem resultShape_of_truncated {s : State} {n : Nat} (hn : n < 12) (hr : s.resultTruncated n) :
    s.phase = .done ∧ s.resultShape := by
  obtain ⟨hp, hs, hh, hrem, hm, hreq, hav, hrest⟩ := hr
  rw [State.resultShape, hs]
  exact ⟨hp, hh, hrem, hm, hreq, ⟨n, hn, hav⟩, hrest⟩

theorem resultShape_of_malformed {s : State} {z : BitVec 3} (hz : z ≠ 0) (hr : s.resultMalformed z) :
    s.phase = .done ∧ s.resultShape := by
  obtain ⟨hp, hs, hh, hrem, ht, hpat, hrest⟩ := hr
  rw [State.resultShape, hs]
  exact ⟨hp, hh, hrem, ht, ⟨z, hz, hpat⟩, hrest⟩

/-- The trace is the one of the cursor's place, where both are known. -/
theorem trace_at {s : State} (l : List Nat) (c : BitVec 7) (ht : s.readTrace = l) (hc : s.cur = c)
    (h : l = traceTo c.toNat) : s.readTrace = traceTo s.cur.toNat := by
  rw [ht, hc, h]

theorem begin_wellShaped {s : State} (hs : s.supplied) : (beginTransaction s).wellShaped :=
  ⟨trace_at [] 0 rfl rfl (by decide), .inr (.inl ⟨rfl, begin_underWay hs⟩)⟩

section
variable (s : State)

theorem reset_wellShaped : (hostReset s).wellShaped :=
  ⟨trace_at [] 0 rfl rfl (by decide), .inl ⟨rfl, reset_justReset⟩⟩

theorem raiseTruncated_wellShaped {n : Nat} (hn : n < 12) :
    (raiseTruncated n (beginTransaction s)).wellShaped :=
  ⟨trace_at [] 0 rfl rfl (by decide), .inr (.inr (resultShape_of_truncated hn (raiseTruncated_result s n)))⟩

theorem finishMalformed_wellShaped {z : BitVec 3} (hz : z ≠ 0) :
    (finishMalformed z (beginTransaction s)).wellShaped :=
  ⟨trace_at [3, 2, 1, 0] 28 rfl rfl (by decide),
    .inr (.inr (resultShape_of_malformed hz (finishMalformed_result s z)))⟩

theorem finishOk_wellShaped {h : Header} (hw : h.wf = true) :
    (finishOk h (beginTransaction s)).wellShaped :=
  ⟨trace_at [11, 10, 9, 8, 7, 6, 5, 4, 3, 2, 1, 0] 96 rfl rfl (by decide),
    .inr (.inr (resultShape_of_ok hw (finishOk_result s hw)))⟩

end

theorem decode_wellShaped {s t : State} (h : exec .decode s = .next t) : t.wellShaped := by
  obtain ⟨-, ⟨hl, rfl⟩ | ⟨-, -, hz, rfl⟩ | ⟨-, -, -, rfl⟩⟩ := decode_next_inv h
  · exact raiseTruncated_wellShaped s hl
  · exact finishMalformed_wellShaped s hz
  · exact finishOk_wellShaped s (headerOf_wf _)

theorem start_wellShaped {s t : State} (h : exec .start s = .next t) : t.wellShaped := by
  obtain ⟨-, hs, h⟩ := onStart_inv h
  cases h
  exact begin_wellShaped hs

/-! ### The decoder's step in BUSY -/

theorem readTo_wellShaped {s : State} {c : Nat} {a : Option Half} (hl : 12 ≤ s.inLen) (hh : s.headerHeld)
    (hstep : (stepAt (BitVec.ofNat 7 c)).isSome = true) (hc : c ≤ 96)
    (hz : 28 ≤ c → zoneOf s.byte = 0) (ha : c = 0 → a = none) :
    ((beginTransaction s).readTo c a).wellShaped :=
  ⟨congrArg traceTo (readTo_cur hc).symm, .inr (.inl ⟨rfl, readTo_underWay hl hh hstep hc hz ha⟩)⟩

theorem checkLength_wellShaped {s t : State} (hs : s.supplied)
    (h : checkLength (beginTransaction s) = .next t) : t.wellShaped := by
  by_cases hl : s.inLen < 12
  · rw [checkLength_short (s := beginTransaction s) hl] at h
    cases h
    exact raiseTruncated_wellShaped s hl
  · have hlong : 12 ≤ s.inLen := Nat.le_of_not_lt hl
    rw [checkLength_long (s := beginTransaction s) hlong] at h
    cases h
    exact readTo_wellShaped (c := 0) (a := none) hlong (hs.resolve_left hl) rfl (Nat.zero_le _)
      (fun h => absurd h (by decide)) fun _ => rfl

/-- A step of the sequence, at its place: it ends the transaction, or the next step is at its place. -/
theorem exec_stepAt_wellShaped {s t : State} {c : BitVec 7} {a : Option Half} {i : Instr}
    (hl : 12 ≤ s.inLen) (hh : s.headerHeld) (hi : stepAt c = some i)
    (hz : 28 ≤ c.toNat → zoneOf s.byte = 0)
    (hx : exec i ((beginTransaction s).readTo c.toNat a) = .next t) : t.wellShaped := by
  obtain ⟨hend, hzone, hnext, hpast⟩ := stepAt_next c i hi
  by_cases hA : i = .assemble
  · obtain rfl := hA
    obtain rfl := hend rfl
    change Host.Outcome.next (presentResult ((beginTransaction s).readTo 96 a)) = .next t at hx
    rw [presentResult_readTo] at hx
    cases hx
    exact finishOk_wellShaped s (headerOf_wf _)
  by_cases hZ : i = .rdZ ∧ zoneOf s.byte ≠ 0
  · obtain ⟨rfl, hnz⟩ := hZ
    obtain rfl := hzone rfl
    cases (extractZ_raises (s := beginTransaction s) hl hh hnz a).symm.trans hx
    exact finishMalformed_wellShaped s hnz
  · have hzero : i = .rdZ → zoneOf s.byte = 0 := fun h => by_contra fun hn => hZ ⟨h, hn⟩
    obtain ⟨hwidth, hpos⟩ := stepAt_width c i hi
    obtain ⟨a', ha'⟩ := takesTo_stepAt (s := beginTransaction s) hl hh hi hA hzero a
    cases ha'.symm.trans hx
    exact readTo_wellShaped hl hh (hnext hA) hwidth (fun h => (hpast h).elim hz hzero)
      fun h => absurd (hpos.resolve_left hA) (by omega)

theorem sequencer_wellShaped {s t : State} {i : Instr} (hs : s.wellShaped)
    (hq : sequencer s = .instr i) (hx : exec i s = .next t) : t.wellShaped := by
  obtain ⟨ht, hs⟩ := hs
  obtain ⟨hb, hpos⟩ := sequencer_instr_inv hq
  have hu : s.underWay := by simpa [hb] using hs
  have ⟨_, _, _, _, _, hlen, _, hsup, _, _, _, _, _, _, _, _, ⟨hz, _, _⟩, _⟩ := hu
  rcases hpos with ⟨hk, rfl⟩ | ⟨hk, hi⟩
  · refine checkLength_wellShaped hsup ?_
    rwa [← underWay_begin hb ht hu hk]
  · have hl : 12 ≤ s.inLen := hlen hk
    refine exec_stepAt_wellShaped (a := s.acc) hl (hsup.resolve_left (Nat.not_lt.mpr hl)) hi
      (fun h => (hz h).2) ?_
    rwa [← underWay_readTo hb ht hu hk]

theorem decoderTurn_wellShaped {s t : State} (hs : s.wellShaped) (h : decoderTurn s = .next t) :
    t.wellShaped := by
  unfold decoderTurn at h
  split at h
  · cases h
    exact hs
  next hq => exact sequencer_wellShaped (s := s.pop) hs hq h
  · cases h

/-! ### Turns that leave the block as it is -/

/-- Only the host's own fields and the value returned have changed, no register of the block. -/
def State.sameBlock (s t : State) : Prop :=
  t = { s with
    buf := t.buf, inLen := t.inLen, ret := t.ret, agenda := t.agenda, hostData := t.hostData
    freeCount := t.freeCount }

/-- The length and bytes 0 to 11 are as they were (70_reset_and_hazards.md R207). -/
def State.sameInput (s t : State) : Prop :=
  t.inLen = s.inLen ∧ ∀ a, a < 12 → Memory.get t.buf a = Memory.get s.buf a

theorem pop_sameBlock (s : State) : s.sameBlock s.pop := rfl

theorem returning_sameBlock (v : Ret) (s : State) : s.sameBlock (returning v s) := rfl

theorem hostRead_next_inv {p : Port} {s t : State} (h : hostRead p s = .next t) :
    ∃ v, t = { s with hostData := some v } := by
  unfold hostRead at h
  split at h <;> cases h
  exact ⟨_, rfl⟩

theorem hostRead_sameBlock {p : Port} {s t : State} (h : hostRead p s = .next t) :
    s.sameBlock t ∧ s.sameInput t := by
  obtain ⟨v, rfl⟩ := hostRead_next_inv h
  exact ⟨rfl, rfl, fun _ _ => rfl⟩

theorem sameHeaderBytes_iff {m m' : Memory} :
    sameHeaderBytes m m' = true ↔ ∀ a, a < 12 → Memory.get m a = Memory.get m' a := by
  simp [sameHeaderBytes, Config.hdrBytes]

theorem hostSupply_sameBlock {m : Memory} {n : Nat} {s t : State} (h : hostSupply m n s = .next t) :
    s.sameBlock t ∧ (s.phase = .busy → s.sameInput t) := by
  have heq := hostSupply_next_inv h
  refine ⟨by rw [heq]; rfl, fun hb => ?_⟩
  unfold hostSupply at h
  split at h
  · cases h
  next hok =>
    obtain ⟨hn, hm⟩ := not_not.mp fun hne => hok ⟨hb, hne⟩
    rw [heq]
    exact ⟨hn, fun a ha => (sameHeaderBytes_iff.mp hm a ha).symm⟩

/-- The host's moves other than START and reset (60_exceptions.md R188). -/
theorem hostMove_sameBlock {m : HostMove} {s t : State} (hs : m ≠ .start) (hr : m ≠ .rst)
    (h : hostMove m s = .next t) : s.sameBlock t ∧ (s.phase = .busy → s.sameInput t) := by
  cases m with
  | start => exact absurd rfl hs
  | rst => exact absurd rfl hr
  | read p => exact (hostRead_sameBlock h).imp_right fun hin _ => hin
  | load l => exact hostSupply_sameBlock h
  | poke a b => exact hostSupply_sameBlock h
  | setLen n => exact hostSupply_sameBlock h

/-- The recognisers of the pure functions: the code mappings and ENCODE. -/
def PureSel (sel : Sel) : Prop := sel = .mapOpcode ∨ sel = .mapRcode ∨ sel = .encode

theorem decode_mapOpcode_inv {bytes : List Byte} {i : Instr} (h : decode .mapOpcode bytes = .ok i) :
    i = mapOpcodeRow (opcodeRawOf (byteAt bytes)) := by
  by_cases hl : bytes.length < 4
  · cases (if_pos hl).symm.trans h
  · cases (if_neg hl).symm.trans h
    rfl

theorem decode_mapRcode_inv {bytes : List Byte} {i : Instr} (h : decode .mapRcode bytes = .ok i) :
    i = mapRcodeRow (rcodeRawOf (byteAt bytes)) := by
  by_cases hl : bytes.length < 4
  · cases (if_pos hl).symm.trans h
  · cases (if_neg hl).symm.trans h
    rfl

theorem decode_encode_inv {bytes : List Byte} {i : Instr} (h : decode .encode bytes = .ok i) :
    i = .encode (headerOf (byteAt bytes)) := by
  by_cases hl : bytes.length < 12
  · cases (decode_encode_short hl).symm.trans h
  · rw [decode_encode_long (Nat.le_of_not_lt hl)] at h
    split at h <;> cases h
    rfl

/-- A row of a pure function only returns a value. -/
theorem pureRow_returns {sel : Sel} {bytes : List Byte} {i : Instr} (hs : PureSel sel)
    (hd : decode sel bytes = .ok i) : ∃ v, ∀ s, exec i s = .next (returning v s) := by
  rcases hs with rfl | rfl | rfl
  · rw [decode_mapOpcode_inv hd]
    exact ⟨_, fun s => exec_mapOpcodeRow s _⟩
  · rw [decode_mapRcode_inv hd]
    exact ⟨_, fun s => exec_mapRcodeRow s _⟩
  · rw [decode_encode_inv hd]
    exact ⟨_, fun _ => rfl⟩

/-- A row run alone that completes was found, and ran. -/
theorem runRow_next_inv {sel : Sel} {s t : State} (h : runRow sel s = .next t) :
    ∃ bytes i, fetchBytes sel s = .next bytes ∧ decode sel bytes = .ok i ∧ exec i s.pop = .next t := by
  obtain ⟨bytes, hf, h⟩ := andThen_eq_next h
  split at h
  next i hd => exact ⟨bytes, i, hf, hd, h⟩
  · cases h

theorem runRow_pure {sel : Sel} {s t : State} (hs : PureSel sel) (h : runRow sel s = .next t) :
    ∃ v, t = returning v s.pop := by
  obtain ⟨bytes, i, -, hd, hx⟩ := runRow_next_inv h
  obtain ⟨v, hv⟩ := pureRow_returns hs hd
  cases (hv _).symm.trans hx
  exact ⟨v, rfl⟩

theorem sameOutcome_of_sameBlock {s t : State} (h : s.sameBlock t) :
    s.sameOutcome t ∧ t.remLen = s.remLen := by
  rw [h]
  simp [State.sameOutcome]

/-- Settles O7: in DONE the decoder idles, and the other turns leave the block as it is. -/
theorem resultStays : Obligations.ResultStays := by
  intro s t hp hhost hrun h
  apply sameOutcome_of_sameBlock
  cases ht : s.turn with
  | decoder =>
    rw [step_idle ht (by rw [hp]; decide)] at h
    cases h
    exact pop_sameBlock s
  | host m =>
    obtain ⟨hs, hr⟩ := hhost m ht
    rw [step_hostMove ht] at h
    exact (hostMove_sameBlock (s := s.pop) hs hr h).1
  | run sel =>
    rw [step_runRow ht] at h
    obtain ⟨v, rfl⟩ := runRow_pure (hrun sel ht) h
    exact returning_sameBlock v s.pop

theorem underWay_of_sameBlock {s t : State} (h : s.sameBlock t) (hin : s.sameInput t)
    (hu : s.underWay) : t.underWay := by
  obtain ⟨hlen, hget⟩ := hin
  have hbyte : ∀ a, a < 12 → t.byte a = s.byte a := fun a ha => byte_eq_of_get (hget a ha)
  have hheader : headerOf t.byte = headerOf s.byte := headerOf_congr hbyte
  have hopcode : opcodeRawOf t.byte = opcodeRawOf s.byte := by
    rw [opcodeRawOf, opcodeRawOf, hbyte 2 (by decide)]
  have hrcode : rcodeRawOf t.byte = rcodeRawOf s.byte := by
    rw [rcodeRawOf, rcodeRawOf, hbyte 3 (by decide)]
  have hzone : zoneOf t.byte = zoneOf s.byte := by rw [zoneOf, zoneOf, hbyte 3 (by decide)]
  have hsup : s.supplied → t.supplied := .imp (fun hl => hlen ▸ hl) (headerHeld_congr hget)
  obtain ⟨hst, hrem, htr, hmal, hcur, hl, hstep, hs, hrest⟩ := hu
  rw [State.underWay, hheader, hopcode, hrcode, hzone, hlen]
  refine ⟨?_, ?_, ?_, ?_, ?_, ?_, ?_, hsup hs, ?_⟩
  all_goals
    rw [h]
    assumption

theorem wellShaped_of_sameBlock {s t : State} (h : s.sameBlock t)
    (hin : s.phase = .busy → s.sameInput t) (hs : s.wellShaped) : t.wellShaped := by
  obtain ⟨ht, ⟨hp, hs⟩ | ⟨hp, hs⟩ | ⟨hp, hs⟩⟩ := hs
  · rw [h]
    exact ⟨ht, .inl ⟨hp, hs⟩⟩
  · have hu := underWay_of_sameBlock h (hin hp) hs
    refine ⟨?_, .inr (.inl ⟨?_, hu⟩)⟩
    all_goals
      rw [h]
      assumption
  · rw [h]
    exact ⟨ht, .inr (.inr ⟨hp, hs⟩)⟩

/-! ### Every step keeps the invariant -/

theorem hostMove_wellShaped {m : HostMove} {s t : State} (hs : s.wellShaped)
    (h : hostMove m s = .next t) : t.wellShaped := by
  by_cases hm : m = .start
  · obtain rfl := hm
    exact start_wellShaped h
  by_cases hr : m = .rst
  · obtain rfl := hr
    cases h
    exact reset_wellShaped s
  · obtain ⟨hblock, hin⟩ := hostMove_sameBlock hm hr h
    exact wellShaped_of_sameBlock hblock hin hs

/-- A row run alone within the contract: a pure function, DECODE, an outcome row, or START (logs 2, 15). -/
theorem runRow_wellShaped {sel : Sel} {s t : State} (hs : s.wellShaped)
    (hc : (Turn.run sel).inContract = true) (h : runRow sel s = .next t) : t.wellShaped := by
  have pure (hp : PureSel sel) : t.wellShaped := by
    obtain ⟨v, rfl⟩ := runRow_pure hp h
    exact wellShaped_of_sameBlock (returning_sameBlock v s.pop) (fun _ => ⟨rfl, fun _ _ => rfl⟩) hs
  obtain ⟨bytes, i, hf, hd, hx⟩ := runRow_next_inv h
  cases sel
  case decode =>
    cases hd
    exact decode_wellShaped hx
  case outcome =>
    rw [exec_outcomeRow (s := s.pop) (hasOutcomeRow_of_found hf hd)] at hx
    exact decode_wellShaped hx
  case start =>
    cases hd
    exact start_wellShaped hx
  case mapOpcode => exact pure (.inl rfl)
  case mapRcode => exact pure (.inr (.inl rfl))
  case encode => exact pure (.inr (.inr rfl))
  all_goals cases hc

theorem step_wellShaped {s t : State} (hs : s.wellShaped) (hc : s.turn.inContract = true)
    (h : step s = .next t) : t.wellShaped := by
  cases ht : s.turn with
  | decoder =>
    rw [step_decoderTurn ht] at h
    exact decoderTurn_wellShaped hs h
  | host m =>
    rw [step_hostMove ht] at h
    exact hostMove_wellShaped (s := s.pop) hs h
  | run sel =>
    rw [step_runRow ht] at h
    rw [ht] at hc
    exact runRow_wellShaped hs hc h

theorem exec_agenda {i : Instr} {s t : State} (h : exec i s = .next t) : t.agenda = s.agenda := by
  obtain ⟨-, -, -, hagenda, -⟩ := keepsHost_exec i s t h
  exact hagenda

theorem hostMove_agenda {m : HostMove} {s t : State} (h : hostMove m s = .next t) :
    t.agenda = s.agenda := by
  cases m with
  | start => exact exec_agenda (i := .start) h
  | rst =>
    cases h
    rfl
  | read p =>
    obtain ⟨v, rfl⟩ := hostRead_next_inv h
    rfl
  | load l => rw [hostSupply_next_inv h]
  | poke a b => rw [hostSupply_next_inv h]
  | setLen n => rw [hostSupply_next_inv h]

/-- Every step takes its turn off the agenda (log 1). -/
theorem step_agenda {s t : State} (h : step s = .next t) : t.agenda = s.agenda.tail := by
  cases ht : s.turn with
  | decoder =>
    rw [step_decoderTurn ht, decoderTurn] at h
    split at h
    · cases h
      rfl
    · exact exec_agenda (s := s.pop) h
    · cases h
  | host m =>
    rw [step_hostMove ht] at h
    exact hostMove_agenda (s := s.pop) h
  | run sel =>
    rw [step_runRow ht] at h
    obtain ⟨-, i, -, -, hx⟩ := runRow_next_inv h
    exact exec_agenda (s := s.pop) hx

/-- The turn of a step and the turns after it are within the contract where all the turns to come are. -/
theorem contract_split {s : State} (h : s.agenda.all Turn.inContract = true) :
    s.turn.inContract = true ∧ s.agenda.tail.all Turn.inContract = true := by
  rw [State.turn]
  cases ha : s.agenda with
  | nil => exact ⟨rfl, rfl⟩
  | cons a rest =>
    rw [ha, List.all_cons] at h
    exact Bool.and_eq_true_iff.mp h

/-- Settles O58: the memory's form by its own law, the contract by what is left of the agenda, and the trace
and the registers by whose turn it is. -/
theorem stepKeepsInv : Obligations.StepKeepsInv := by
  intro s t hinv h
  obtain ⟨hm, hc, hs⟩ := inv_iff.mp hinv
  obtain ⟨hturn, hrest⟩ := contract_split hc
  refine inv_iff.mpr ⟨stepKeepsCanonicalMemory s t hm h, ?_, step_wellShaped hs hturn h⟩
  rwa [step_agenda h]

/-! ### The step machine from START to DONE (42_decode_transaction.md R144, R151) -/

/-- The same machine with no turn to come, so that the decoder steps, and the counter of free values at `f`
(logs 1, 13). -/
def State.quiet (s : State) (f : Nat) : State := { s with agenda := [], freeCount := f }

theorem quiet_of_nil {s : State} (h : s.agenda = []) : s.quiet s.freeCount = s := by
  rw [State.quiet, ← h]

theorem core_run_one (s : State) : core.run 1 s = step s := core_run_snoc 0 s

/-- One more step of a run that has come to `t`. -/
theorem core_run_after {k : Nat} {s t : State} (h : core.run k s = .next t) :
    core.run (k + 1) s = step t :=
  (core_run_snoc k s).trans (congrArg (andThen · step) h)

/-- A run that has come to `t` goes on as a run from `t`. -/
theorem core_run_add {m : Nat} {s t : State} (h : core.run m s = .next t) (n : Nat) :
    core.run (m + n) s = core.run n t := by
  induction n with
  | zero => exact h
  | succ n ih =>
    exact (core_run_snoc (m + n) s).trans
      ((congrArg (andThen · step) ih).trans (core_run_snoc n t).symm)

/-- Outside BUSY, with no turn to come, only the counter of free values goes on (log 20). -/
theorem core_run_idle {s : State} (hp : s.phase ≠ .busy) (f k : Nat) :
    core.run k (s.quiet f) = .next (s.quiet (f + k)) := by
  induction k with
  | zero => rfl
  | succ k ih => exact (core_run_after ih).trans (step_idle (s := s.quiet (f + k)) rfl hp)

/-- The decoder's turn at a "cursor in" runs the step that stands there. -/
theorem step_at {s : State} {f : Nat} {c : BitVec 7} {a : Option Half} {i : Instr}
    (hi : stepAt c = some i) :
    step ((beginTransaction (s.quiet f)).readTo c.toNat a) =
      exec i ((beginTransaction (s.quiet (f + 1))).readTo c.toNat a) := by
  have hcur : BitVec.ofNat 7 c.toNat = c := by simp
  refine step_decoder rfl (sequencer_stepAt rfl rfl ?_)
  show stepAt (BitVec.ofNat 7 c.toNat) = some i
  rw [hcur, hi]

/-- The "cursor in" of the steps after the length check, in order (41_field_extraction.md R127). -/
def cursorIn (k : Nat) : BitVec 7 := [0, 16, 17, 21, 22, 23, 24, 25, 28, 32, 48, 64, 80, 96].getD k 96

/-- Each of these steps but the last ends at the next one's "cursor in"; RD.Z is the one at place 7. -/
theorem cursorIn_succ : ∀ k < 13, ∃ i ∈ stepAt (cursorIn k), i ≠ .assemble ∧ (i = .rdZ → k = 7) ∧
    (cursorIn (k + 1)).toNat = (cursorIn k).toNat + stepWidth i := by decide

/-- The steps of a transaction, START included (42_decode_transaction.md R144). -/
def stepCount (s : State) : Nat := if s.inLen < 12 then 2 else if zoneOf s.byte ≠ 0 then 10 else 16

theorem stepCount_short {s : State} (hl : s.inLen < 12) : stepCount s = 2 := if_pos hl

theorem stepCount_malformed {s : State} (hl : 12 ≤ s.inLen) (hz : zoneOf s.byte ≠ 0) : stepCount s = 10 :=
  (if_neg (Nat.not_lt.mpr hl)).trans (if_pos hz)

theorem stepCount_ok {s : State} (hl : 12 ≤ s.inLen) (hz : zoneOf s.byte = 0) : stepCount s = 16 :=
  (if_neg (Nat.not_lt.mpr hl)).trans (if_neg (not_not.mpr hz))

section
variable {s : State} (hp : s.phase ≠ .busy) (ha : s.agenda = [.host .start])
include hp ha

theorem run_start (hs : s.supplied) :
    core.run 1 s = .next (beginTransaction (s.quiet (s.freeCount + 1))) := by
  have hpop : s.pop = s.quiet (s.freeCount + 1) := pop_of_cons ha
  rw [core_run_one, step_hostMove (turn_of_cons ha), hpop]
  exact onStart_eq hp hs

theorem run_checkLength (hs : s.supplied) :
    core.run 2 s = checkLength (beginTransaction (s.quiet (s.freeCount + 2))) := by
  rw [core_run_after (run_start hp ha hs)]
  exact step_decoder rfl (sequencer_chkLen rfl rfl)

/-- After the length check the decoder stands at one "cursor in" after another, up to RD.Z in any case and
to ASSEMBLE where the zone is zero. -/
theorem run_readTo (hl : 12 ≤ s.inLen) (hh : s.headerHeld) {k : Nat} (hk : k ≤ 13)
    (hz : 8 ≤ k → zoneOf s.byte = 0) :
    ∃ a, core.run (k + 2) s =
      .next ((beginTransaction (s.quiet (s.freeCount + 2 + k))).readTo (cursorIn k).toNat a) := by
  induction k with
  | zero =>
    refine ⟨none, (run_checkLength hp ha (.inr hh)).trans ?_⟩
    exact checkLength_long (s := beginTransaction (s.quiet (s.freeCount + 2))) hl
  | succ k ih =>
    obtain ⟨a, hrun⟩ := ih (by omega) fun h => hz (by omega)
    obtain ⟨i, hi, hA, hZ, hnext⟩ := cursorIn_succ k hk
    obtain ⟨a', hnext'⟩ := takesTo_stepAt
      (s := beginTransaction (s.quiet (s.freeCount + 2 + (k + 1)))) hl hh hi hA (fun h => hz (by rw [hZ h])) a
    refine ⟨a', ?_⟩
    rw [hnext]
    exact (core_run_after hrun).trans ((step_at hi).trans hnext')

/-- The steps one after another leave what DECODE leaves in one (42_decode_transaction.md R151). -/
theorem run_stepCount (hs : s.supplied) :
    core.run (stepCount s) s = exec .decode (s.quiet (s.freeCount + stepCount s)) := by
  by_cases hl : s.inLen < 12
  · rw [stepCount_short hl, run_checkLength hp ha hs, decode_short (s := s.quiet _) hp hl]
    exact checkLength_short hl
  have hh : s.headerHeld := hs.resolve_left hl
  have hl : 12 ≤ s.inLen := Nat.le_of_not_lt hl
  by_cases hz : zoneOf s.byte = 0
  · obtain ⟨a, hrun⟩ := run_readTo hp ha hl hh (k := 13) le_rfl fun _ => hz
    rw [stepCount_ok hl hz, core_run_after hrun, step_at rfl, decode_ok (s := s.quiet _) hp hl hh hz,
      ← presentResult_readTo _ a]
    rfl
  · obtain ⟨a, hrun⟩ := run_readTo hp ha hl hh (k := 7) (by decide)
      fun h => absurd h (by decide)
    rw [stepCount_malformed hl hz, core_run_after hrun, step_at rfl,
      decode_malformed (s := s.quiet _) hp hl hh hz]
    exact extractZ_raises (s := beginTransaction (s.quiet _)) hl hh hz a

/-- The decoder is BUSY after every step but the last (42_decode_transaction.md R144). -/
theorem run_busy (hs : s.supplied) {k : Nat} (h1 : 1 ≤ k) (hk : k < stepCount s) :
    ∃ t, core.run k s = .next t ∧ t.phase = .busy := by
  rcases Nat.eq_or_lt_of_le h1 with rfl | h2
  · exact ⟨_, run_start hp ha hs, rfl⟩
  obtain ⟨k, rfl⟩ : ∃ j, k = j + 2 := ⟨k - 2, by omega⟩
  have hl : ¬ s.inLen < 12 := fun hl => by
    rw [stepCount_short hl] at hk
    omega
  have hh : s.headerHeld := hs.resolve_left hl
  have hl : 12 ≤ s.inLen := Nat.le_of_not_lt hl
  obtain ⟨hk13, hzone⟩ : k ≤ 13 ∧ (8 ≤ k → zoneOf s.byte = 0) := by
    by_cases hz : zoneOf s.byte = 0
    · rw [stepCount_ok hl hz] at hk
      exact ⟨by omega, fun _ => hz⟩
    · rw [stepCount_malformed hl hz] at hk
      exact ⟨by omega, fun _ => by omega⟩
  obtain ⟨a, hrun⟩ := run_readTo hp ha hl hh hk13 hzone
  exact ⟨_, hrun, rfl⟩

/-- Sixteen steps end where DECODE does, whatever the outcome: those past DONE are idle turns. -/
theorem run_sixteen {P : State → Prop} (hs : s.supplied)
    (hfree : ∀ t f, P t → P (t.quiet f))
    (h : ∀ f, ∃ t, exec .decode (s.quiet f) = .next t ∧ P t) :
    ∃ t, core.run 16 s = .next t ∧ P t ∧ t.buf = s.buf := by
  obtain ⟨t, ht, hP⟩ := h (s.freeCount + stepCount s)
  obtain ⟨hbuf, -, -, hagenda, -⟩ := keepsHost_decode _ t ht
  obtain ⟨-, hdone, -⟩ := decode_ended ht
  have hcount : stepCount s ≤ 16 := by
    unfold stepCount
    split_ifs <;> decide
  obtain ⟨rest, hrest⟩ := Nat.exists_eq_add_of_le hcount
  have hidle := core_run_idle (by rw [hdone]; decide) t.freeCount rest
  rw [quiet_of_nil hagenda] at hidle
  refine ⟨t.quiet (t.freeCount + rest), ?_, hfree t _ hP, hbuf⟩
  rw [hrest, core_run_add ((run_stepCount hp ha hs).trans ht), hidle]

end

/-- Settles O39: the steps end where DECODE does, whose outcome is the closed form's. -/
theorem stepMachineAgrees : Obligations.StepMachineAgrees := by
  intro s hp ha
  refine ⟨fun hl => ?_, fun hl hh hz => ?_, fun hl hh hz => ?_, fun hl hh => ?_⟩
  · exact run_sixteen hp ha (.inl hl) (fun _ _ h => h) fun f => decode_short_result (s := s.quiet f) hp hl
  · exact run_sixteen hp ha (.inr hh) (fun _ _ h => h) fun f =>
      decode_malformed_result (s := s.quiet f) hp hl hh hz
  · exact run_sixteen hp ha (.inr hh) (fun _ _ h => h) fun f =>
      decode_ok_result (s := s.quiet f) hp hl hh hz
  · rw [core_run_one, step_hostMove (turn_of_cons ha)]
    exact onStart_missing (s := s.pop) hp (not_supplied hl hh)

/-- A transaction on a buffer START accepts completes. -/
theorem decode_completes {s : State} (hp : s.phase ≠ .busy) (hs : s.supplied) :
    ∃ t, exec .decode s = .next t := by
  by_cases hl : s.inLen < 12
  · exact ⟨_, decode_short hp hl⟩
  have hh : s.headerHeld := hs.resolve_left hl
  by_cases hz : zoneOf s.byte = 0
  · exact ⟨_, decode_ok hp (Nat.le_of_not_lt hl) hh hz⟩
  · exact ⟨_, decode_malformed hp (Nat.le_of_not_lt hl) hh hz⟩

/-- Settles O40: the decoder is in BUSY up to the last step, which ends as DECODE does. -/
theorem stepCounts : Obligations.StepCounts := by
  intro s hp ha hs
  obtain ⟨t, ht⟩ := decode_completes (s := s.quiet (s.freeCount + stepCount s)) hp hs
  obtain ⟨-, hdone, -⟩ := decode_ended ht
  exact ⟨stepCount s, rfl, fun k => run_busy hp ha hs, t, (run_stepCount hp ha hs).trans ht, hdone⟩

end Sys2Proof.Machine

/-! ## The reference encoder (43_reference_encoder.md): the codes and their inverses (R161), which headers
are well-formed (R163), the bytes of a header (R160), and the round trip through DECODE (R162) -/

namespace Sys2Proof.Machine

/-! ### The codes, and the well-formed headers -/

/-- Settles O15: the two inverses are lemmas of their own; every named value is one branch of UNMAP. -/
theorem mapUnmap : Obligations.MapUnmap :=
  ⟨fun raw => ⟨unmap_mapOpcode raw, unmap_mapRcode raw⟩, fun _ => map_unmapOpcode,
    fun _ => map_unmapRcode, rfl, rfl, rfl, fun _ => rfl, rfl, rfl, rfl, rfl, rfl, rfl, fun _ => rfl⟩

theorem opcode_wf_iff {v : Opcode} :
    v.wf = true ↔ ∀ raw, v = .reserved raw → 3 ≤ raw.toNat ∧ raw.toNat ≤ 15 := by
  cases v with
  | reserved raw =>
    have hle : raw.toNat ≤ 15 := Nat.le_of_lt_succ raw.isLt
    simp [Opcode.wf, hle]
  | _ => exact iff_of_true rfl fun _ => Opcode.noConfusion

theorem rcode_wf_iff {v : Rcode} :
    v.wf = true ↔ ∀ raw, v = .reserved raw → 6 ≤ raw.toNat ∧ raw.toNat ≤ 15 := by
  cases v with
  | reserved raw =>
    have hle : raw.toNat ≤ 15 := Nat.le_of_lt_succ raw.isLt
    simp [Rcode.wf, hle]
  | _ => exact iff_of_true rfl fun _ => Rcode.noConfusion

/-- Settles O16: a header is well-formed when its two codes are, and one that is read back from bytes is a
header the decoder produces. -/
theorem decodedHeadersWellFormed : Obligations.DecodedHeadersWellFormed :=
  ⟨fun _ => Bool.and_eq_true_iff.trans (and_congr opcode_wf_iff rcode_wf_iff), headerOf_wf,
    fun _ => ⟨fun e => e ▸ headerOf_wf _, headerOf_encodeHeader⟩⟩

/-! ### The bytes of a header -/

/-- The weights of the fields of byte 2 (43_reference_encoder.md R160). -/
theorem flagsHigh_toNat : ∀ (qr : Bool) (opcode : BitVec 4) (aa tc rd : Bool),
    (flagsHigh qr opcode aa tc rd).toNat =
      128 * qr.toNat + 8 * opcode.toNat + 4 * aa.toNat + 2 * tc.toNat + rd.toNat := by decide

/-- The weights of the fields of byte 3; the zone's are absent (43_reference_encoder.md R160). -/
theorem flagsLow_toNat : ∀ (ra : Bool) (rcode : BitVec 4),
    (flagsLow ra rcode).toNat = 128 * ra.toNat + rcode.toNat := by decide

theorem encodeHeader_eq (h : Header) : encodeHeader h =
    [h.id.extractLsb' 8 8, h.id.extractLsb' 0 8,
     flagsHigh h.qr (unmapOpcode h.opcode) h.aa h.tc h.rd, flagsLow h.ra (unmapRcode h.rcode),
     h.qdcount.extractLsb' 8 8, h.qdcount.extractLsb' 0 8,
     h.ancount.extractLsb' 8 8, h.ancount.extractLsb' 0 8,
     h.nscount.extractLsb' 8 8, h.nscount.extractLsb' 0 8,
     h.arcount.extractLsb' 8 8, h.arcount.extractLsb' 0 8] := rfl

/-- ENCODE answers next with its bytes returned and nothing else changed (43_reference_encoder.md R160). -/
theorem exec_encode (h : Header) (s : State) :
    exec (.encode h) s = .next { s with ret := some (.bytes (encodeHeader h)) } := rfl

/-- Settles O37: the flag bytes are `flagsHigh` and `flagsLow`, whose weights are known. -/
theorem encodeReturnsBytes : Obligations.EncodeReturnsBytes := by
  intro h s
  refine ⟨flagsHigh h.qr (unmapOpcode h.opcode) h.aa h.tc h.rd, flagsLow h.ra (unmapRcode h.rcode), ?_,
    flagsHigh_toNat .., flagsLow_toNat ..⟩
  rw [exec_encode, encodeHeader_eq]

/-! ### Encode of decode -/

theorem beHalf_high (hi lo : Byte) : (beHalf hi lo).extractLsb' 8 8 = hi :=
  BitVec.extractLsb'_append_eq_left

theorem beHalf_low (hi lo : Byte) : (beHalf hi lo).extractLsb' 0 8 = lo :=
  BitVec.extractLsb'_append_eq_right

theorem flagsHigh_of_fields : ∀ b : Byte,
    flagsHigh (b.getLsbD 7) (b.extractLsb' 3 4) (b.getLsbD 2) (b.getLsbD 1) (b.getLsbD 0) = b := by decide

theorem flagsLow_of_fields : ∀ b : Byte, b.extractLsb' 4 3 = 0 →
    flagsLow (b.getLsbD 7) (b.extractLsb' 0 4) = b := by decide

/-- Bytes with a zero zone are the bytes of the header they hold (43_reference_encoder.md R162). -/
theorem encodeHeader_headerOf {b : Nat → Byte} (hz : zoneOf b = 0) :
    encodeHeader (headerOf b) = (List.range 12).map b := by
  have hhigh : flagsHigh (headerOf b).qr (unmapOpcode (headerOf b).opcode) (headerOf b).aa (headerOf b).tc
      (headerOf b).rd = b 2 := by
    rw [headerOf, unmap_mapOpcode]
    exact flagsHigh_of_fields (b 2)
  have hlow : flagsLow (headerOf b).ra (unmapRcode (headerOf b).rcode) = b 3 := by
    rw [headerOf, unmap_mapRcode]
    exact flagsLow_of_fields (b 3) hz
  rw [encodeHeader_eq, hhigh, hlow]
  simp only [headerOf, beHalf_high, beHalf_low]
  rfl

/-! ### The round trip (43_reference_encoder.md R162) -/

/-- What stands in front of a tail is read as if there were none. -/
theorem byteAt_append {l : List Byte} {a : Nat} (ha : a < l.length) (tail : List Byte) :
    byteAt (l ++ tail) a = byteAt l a :=
  List.getD_append l tail 0 a ha

/-- The host reads a well-formed header back from its fourteen registers (10_state.md R25, R26). -/
theorem State.header_of_holdsHeader {s : State} {h : Header} (hw : h.wf = true) (hh : s.holdsHeader h) :
    s.header = some h := by
  obtain ⟨ho, hr⟩ := Bool.and_eq_true_iff.mp hw
  obtain ⟨hid, hqr, hop, -, haa, htc, hrd, hra, hrc, -, hqd, han, hns, har⟩ := hh
  rw [State.header, hid, hqr, hop, haa, htc, hrd, hra, hrc, hqd, han, hns, har]
  simp [map_unmapOpcode ho, map_unmapRcode hr]

/-- DECODE of a header's bytes, whatever follows them, ends with that header (43_reference_encoder.md R162). -/
theorem decode_presented_header {h : Header} {tail : List Byte} {s : State} (hw : h.wf = true)
    (hp : s.phase ≠ .busy) (hs : s.presents (encodeHeader h ++ tail)) :
    ∃ t, exec .decode s = .next t ∧ t.resultOk h tail.length := by
  have hlen : s.inLen = 12 + tail.length := hs.2.trans List.length_append
  have hbyte : ∀ a, a < 12 → s.byte a = byteAt (encodeHeader h) a := fun a ha => by
    rw [hs.byte, byteAt_append ha]
  have hheader : headerOf s.byte = h := (headerOf_congr hbyte).trans (headerOf_encodeHeader hw)
  have hzone : zoneOf s.byte = 0 := by
    rw [zoneOf, hbyte 3 (by decide)]
    exact Laws.zone_of_encodeHeader h
  have hheld : s.headerHeld := fun a ha => hs.held (by rw [← hs.2]; omega)
  have hresult := decode_ok_result hp (by omega) hheld hzone
  rwa [hheader, hlen, Nat.add_sub_cancel_left] at hresult

/-- Settles O49: a header's bytes decode to it, and bytes with a zero zone are those of the header DECODE
leaves. -/
theorem roundTrip : Obligations.RoundTrip := by
  refine ⟨fun h tail s hw hp hbuf hlen => ?_, fun s hp hl hh hz => ?_⟩
  · exact decode_presented_header hw hp ⟨hbuf, by rw [hlen, List.length_append, encodeHeader_length]⟩
  · obtain ⟨t, ht, -, -, hholds, -⟩ := decode_ok_result hp hl hh hz
    exact ⟨t, headerOf s.byte, ht, State.header_of_holdsHeader (headerOf_wf _) hholds,
      encodeHeader_headerOf hz⟩

end Sys2Proof.Machine

/-! ## The failures and their causes (60_exceptions.md): each exactly when its cause is there (R172, R174,
R177), the rows DECODE.MALFORMED (R175), the violating bits of a zone pattern (R183), what the host may change
of the input (R188), and several instances (R187) -/

namespace Sys2Proof.Machine

/-! ### Each outcome, and the rows DECODE.MALFORMED -/

/-- Settles O45: of what a DECODE can have done, each outcome has a cause that rules the other two out. -/
theorem outcomesExactly : Obligations.OutcomesExactly := by
  intro s t h
  obtain ⟨-, ⟨hl, rfl⟩ | ⟨hl, -, hz, rfl⟩ | ⟨hl, -, hz, rfl⟩⟩ := decode_next_inv h
  · exact ⟨rfl, iff_of_true rfl hl, iff_of_false Status.noConfusion fun c => Nat.not_le.mpr hl c.1,
      iff_of_false Status.noConfusion fun c => Nat.not_le.mpr hl c.1⟩
  · exact ⟨rfl, iff_of_false Status.noConfusion (Nat.not_lt.mpr hl), iff_of_true rfl ⟨hl, hz⟩,
      iff_of_false Status.noConfusion fun c => hz c.2⟩
  · exact ⟨rfl, iff_of_false Status.noConfusion (Nat.not_lt.mpr hl),
      iff_of_false Status.noConfusion fun c => c.2 hz, iff_of_true rfl ⟨hl, hz⟩⟩

/-- The rows DECODE.MALFORMED (60_exceptions.md R174). -/
def malformedRows : List Instr :=
  [.decodeMalformed1, .decodeMalformed2, .decodeMalformed3, .decodeMalformed4, .decodeMalformed5,
    .decodeMalformed6, .decodeMalformed7]

theorem exec_malformedRow : ∀ i ∈ malformedRows, ∃ z, ∀ s, exec i s = outcomeMalformed z s := by
  intro i hi
  fin_cases hi
  all_goals exact ⟨_, fun _ => rfl⟩

/-- Settles O43: from 12 bytes on row `z` raises the failure with `z`; a shorter buffer and an unreadable one
end it before, whichever row it is. -/
theorem outcomeMalformedRows : Obligations.OutcomeMalformedRows := by
  intro s hp
  refine ⟨fun hl hh => ?_, fun i hi => ?_⟩
  · have row (z : BitVec 3) : ∃ t, outcomeMalformed z s = .next t ∧ t.resultMalformed z :=
      ⟨_, outcomeMalformed_long hp hl hh, finishMalformed_result s z⟩
    exact ⟨row 1, row 2, row 3, row 4, row 5, row 6, row 7⟩
  · obtain ⟨z, hz⟩ := exec_malformedRow i hi
    rw [hz]
    exact ⟨fun hl => ⟨_, outcomeMalformed_short hp hl, raiseTruncated_result s _⟩,
      fun hl hh => onStart_missing hp (not_supplied hl hh)⟩

/-! ### The violating bits of a zone pattern -/

theorem mem_violatingBits {p : BitVec 3} {i : Nat} (hi : i < 3) :
    25 + i ∈ violatingBits p ↔ p.getLsbD (2 - i) = true := by
  simp [violatingBits, Config.zOff, hi]

theorem violatingBits_head : ∀ p : BitVec 3, p ≠ 0 →
    (violatingBits p).head? = some (firstViolating p) := by decide

/-- Settles O17: the bits are those of the pattern, and the first is told by where the pattern's size lies. -/
theorem violatingBits_spec : Obligations.ViolatingBits := by
  intro p
  refine ⟨fun i => mem_violatingBits, violatingBits_head p, fun h4 => if_pos h4, fun h2 h4 => ?_,
    fun h2 => ?_⟩
  · rw [firstViolating, if_neg (Nat.not_le.mpr h4), if_pos h2]
  · rw [firstViolating, if_neg (by omega), if_neg (Nat.not_le.mpr h2)]

/-! ### What the host may change of the input -/

/-- Outside BUSY anything is taken, in BUSY what changes neither the length nor bytes 0 to 11. -/
theorem hostSupply_taken {m : Memory} {n : Nat} {s : State}
    (h : s.phase ≠ .busy ∨ s.sameInput { s with buf := m, inLen := n }) :
    hostSupply m n s = .next { s with buf := m, inLen := n } := by
  refine if_neg fun ⟨hb, hne⟩ => ?_
  obtain ⟨hlen, hget⟩ := h.resolve_left (not_not.mpr hb)
  exact hne ⟨hlen, sameHeaderBytes_iff.mpr fun a ha => (hget a ha).symm⟩

theorem hostSupply_refused {m : Memory} {n : Nat} {s : State} (hb : s.phase = .busy)
    (h : ¬ s.sameInput { s with buf := m, inLen := n }) : hostSupply m n s = .refused .bufferChanged :=
  if_pos ⟨hb, fun ⟨hlen, hget⟩ => h ⟨hlen, fun a ha => (sameHeaderBytes_iff.mp hget a ha).symm⟩⟩

/-- What a move of the host that is taken leaves: its own buffer and length, and the block as it was. -/
theorem step_hostSupply {m : Memory} {n : Nat} {s : State} (h : step s = hostSupply m n s.pop)
    (ht : s.phase ≠ .busy ∨ s.sameInput { s with buf := m, inLen := n }) :
    ∃ t, step s = .next t ∧ t.buf = m ∧ t.inLen = n ∧ s.sameOutcome t ∧ t.remLen = s.remLen := by
  have hnext := hostSupply_taken (s := s.pop) ht
  exact ⟨_, h.trans hnext, rfl, rfl, sameOutcome_of_sameBlock (hostSupply_sameBlock hnext).1⟩

/-- A write changes none of bytes 0 to 11 exactly when it goes past them or writes the byte that is there
(log 17). -/
theorem poke_sameInput {a : Nat} {b : Byte} {s : State} :
    s.sameInput { s with buf := Memory.set s.buf a b } ↔ 12 ≤ a ∨ Memory.get s.buf a = some b := by
  constructor
  · rintro ⟨-, hget⟩
    refine (Nat.lt_or_ge a 12).symm.imp_right fun ha => ?_
    exact (hget a ha).symm.trans (Memory.get_set_same _ _ _)
  · refine fun h => ⟨rfl, fun a' ha' => ?_⟩
    by_cases he : a' = a
    · subst he
      exact (Memory.get_set_same _ _ _).trans (h.resolve_left (Nat.not_le.mpr ha')).symm
    · exact Memory.get_set_other _ _ he

theorem setLen_sameInput {n : Nat} {s : State} : s.sameInput { s with inLen := n } ↔ n = s.inLen :=
  and_iff_left fun _ _ => rfl

theorem load_sameInput {l : List Byte} {s : State} :
    s.sameInput { s with buf := Memory.fromBytes 0 l, inLen := l.length } ↔
      l.length = s.inLen ∧ ∀ a, a < 12 → l[a]? = Memory.get s.buf a := by
  have hl : State.presents { s with buf := Memory.fromBytes 0 l, inLen := l.length } l := ⟨rfl, rfl⟩
  simp only [State.sameInput, hl.get]

/-- Settles O52, move by move: each is refused or taken as it changes the length and bytes 0 to 11 or not. -/
theorem bufferStability : Obligations.BufferStability := by
  intro s rest
  refine ⟨fun a b hm => ?_, fun n hm => ?_, fun l hm => ?_⟩
  all_goals have hstep := step_hostMove (turn_of_cons hm)
  · refine ⟨fun hb ha hne => ?_, fun h => ?_⟩
    · have hch := poke_sameInput.not.mpr (not_or.mpr ⟨Nat.not_le.mpr ha, hne⟩)
      exact hstep.trans (hostSupply_refused (s := s.pop) hb hch)
    · obtain ⟨t, ht, hbuf, hlen, hout⟩ := step_hostSupply hstep (h.imp_right poke_sameInput.mpr)
      refine ⟨t, ht, ?_, fun a' ha' => ?_, hlen, hout⟩
      · exact hbuf ▸ Memory.get_set_same _ _ _
      · exact hbuf ▸ Memory.get_set_other _ _ ha'
  · refine ⟨fun hb hne => ?_, fun h => ?_⟩
    · exact hstep.trans (hostSupply_refused (s := s.pop) hb (setLen_sameInput.not.mpr hne))
    · have hnext := hostSupply_taken (s := s.pop) (h.imp_right setLen_sameInput.mpr)
      rw [hstep.trans hnext, pop_of_cons hm]
  · refine ⟨fun hb h => ?_, fun h => ?_⟩
    · have hch := load_sameInput.not.mpr fun ⟨hlen, hget⟩ =>
        h.elim (· hlen) fun ⟨a, ha, hne⟩ => hne (hget a ha)
      exact hstep.trans (hostSupply_refused (s := s.pop) hb hch)
    · obtain ⟨t, ht, hbuf, hlen, hout⟩ := step_hostSupply hstep (h.imp_right load_sameInput.mpr)
      exact ⟨t, ht, hlen, State.presents.get ⟨hbuf, hlen⟩, hout⟩

/-! ### Several instances -/

/-- A fleet's step, seen from its member `k`: the member's own step, or none. -/
theorem fleetStep_at {j k : Nat} {fleet fleet' : List State} {s : State}
    (h : fleetStep j fleet = .next fleet') (hk : fleet[k]? = some s) :
    j = k ∧ (∃ t, step s = .next t ∧ fleet'[k]? = some t) ∨ j ≠ k ∧ fleet'[k]? = some s := by
  by_cases hjk : j = k
  · subst hjk
    rw [fleetStep, hk] at h
    obtain ⟨t, ht, h⟩ := andThen_eq_next h
    cases h
    exact .inl ⟨rfl, t, ht, List.getElem?_set_self (List.getElem?_eq_some_iff.mp hk).1⟩
  · refine .inr ⟨hjk, ?_⟩
    unfold fleetStep at h
    split at h
    · cases h
      exact hk
    · obtain ⟨t, -, h⟩ := andThen_eq_next h
      cases h
      rw [List.getElem?_set_ne hjk, hk]

/-- Settles O60, by induction on the interleaving: each member moves where it is named, and only there. -/
theorem instancesIndependent : Obligations.InstancesIndependent := by
  intro ks
  induction ks with
  | nil =>
    intro fleet fleet' h k s hk
    cases h
    exact ⟨s, hk, rfl⟩
  | cons j ks ih =>
    intro fleet fleet' h k s hk
    obtain ⟨mid, hj, hks⟩ := andThen_eq_next h
    obtain ⟨rfl, t, ht, hmid⟩ | ⟨hne, hmid⟩ := fleetStep_at hj hk
    · obtain ⟨u, hu, hrun⟩ := ih mid fleet' hks j t hmid
      refine ⟨u, hu, ?_⟩
      rw [List.count_cons_self, core_run_succ, ht]
      exact hrun
    · rw [List.count_cons_of_ne hne]
      exact ih mid fleet' hks k s hmid

end Sys2Proof.Machine

/-! ## The reset event (70_reset_and_hazards.md R200) -/

namespace Sys2Proof.Machine

/-- What the host owns is no part of it (10_state.md R40). -/
theorem hostReset_justReset (s : State) : (hostReset s).justReset := reset_justReset

/-- No phase and no input stops `rst`. -/
theorem step_rst {s : State} {rest : List Turn} (h : s.agenda = .host .rst :: rest) :
    step s = .next (hostReset s.pop) := by
  rw [step_hostMove (turn_of_cons h), hostMove]

/-- Settles O2: the next state is the reset of the state with its turn taken off, and neither touches what the
host owns. -/
theorem rstFromAnyState : Obligations.RstFromAnyState := by
  intro s rest h
  have hagenda : (hostReset s.pop).agenda = rest := by
    rw [hostReset_agenda, pop_of_cons h]
  have hidle : sequencer (hostReset s.pop) = .idle := sequencer_idle Phase.noConfusion
  exact ⟨hostReset s.pop, step_rst h, hostReset_phase _, hostReset_justReset _,
    (hostReset_buf _).trans (pop_buf s), (hostReset_inLen _).trans (pop_inLen s), hagenda, hidle⟩

end Sys2Proof.Machine
